-- ==== Sys2Proof/Word.lean ====
section
/-! DEFINITION. Word and byte types (00_scope.md R5, R7, R8): every stored value is an unsigned number of a fixed width. -/

namespace Sys2Proof

/-- A byte: a general register, a timer, a memory location, the random input (R20, R26, R41). -/
abbrev Byte := BitVec 8

/-- A 16-bit word: pc, I, a stack entry, an opcode word (R22, R23, R24, R56). -/
abbrev Word := BitVec 16

/-- A register index, 0 to 15: the X and Y of an opcode (R9, R20). -/
abbrev Reg := Fin 16

/-- The index of the flag register VF (R5, R21). -/
abbrev flagReg : Reg := 15

/-- The word whose high byte is `hi` and low byte `lo`: big-endian (R56). -/
def wordOf (hi lo : Byte) : Word := BitVec.ofNat 16 (hi.toNat * 256 + lo.toNat)

end Sys2Proof
end

