-- ==== Sys2Proof/WellFormed.lean ====
section
/-! DEFINITION. What is well formed: an instruction, an opcode word, a program. Written from 30_encoding.md R79, R81 and
70_reset_and_hazards.md R202, not from the decoder. -/

namespace Sys2Proof

/-- Within a recognised instruction no field value is reserved: every X, Y, N, NN and NNN is legal, X = 0xF, Y = X and
N = 0 among them (R81), and the operand types hold no other value. So every term is well formed, and a statement about
well-formed instructions is about all of them. -/
def Instr.wf : Instr → Bool
  | .cls | .ret => true
  | .jp _ | .call _ | .ldI _ | .jpV0 _ => true
  | .seImm _ _ | .sneImm _ _ | .ldImm _ _ | .addImm _ _ | .rnd _ _ => true
  | .seReg _ _ | .sneReg _ _ | .ldReg _ _ | .orReg _ _ | .andReg _ _ | .xorReg _ _ => true
  | .addReg _ _ | .subReg _ _ | .shrReg _ _ | .subnReg _ _ | .shlReg _ _ => true
  | .drw _ _ _ => true
  | .skp _ | .sknp _ | .ldVxDt _ | .ldVxK _ | .ldDtVx _ | .ldStVx _ => true
  | .addI _ | .ldF _ | .ldB _ | .storeRegs _ | .loadRegs _ => true

/-- A word of family 0 is an instruction only as 0x00E0 or 0x00EE (R79). -/
def wfFamily0 (w : Nat) : Bool := w == 0x00E0 || w == 0x00EE

/-- 5XYn and 9XYn are instructions only with n = 0 (R79). -/
def wfFamily59 (w : Nat) : Bool := w % 16 == 0

/-- 8XYn is an instruction except with n in 8, 9, A, B, C, D, F (R79). -/
def wfFamily8 (w : Nat) : Bool := !([0x8, 0x9, 0xA, 0xB, 0xC, 0xD, 0xF].contains (w % 16))

/-- EXkk is an instruction only with kk in 9E, A1 (R79). -/
def wfFamilyE (w : Nat) : Bool := [0x9E, 0xA1].contains (w % 256)

/-- FXkk is an instruction only with kk in 07, 0A, 15, 18, 1E, 29, 33, 55, 65 (R79). -/
def wfFamilyF (w : Nat) : Bool := [0x07, 0x0A, 0x15, 0x18, 0x1E, 0x29, 0x33, 0x55, 0x65].contains (w % 256)

/-- Is the opcode word an instruction? The table of R79, family by family; the families 1, 2, 3, 4, 6, 7, A, B, C and D
have no unrecognised word. -/
def recognisedWord (op : Word) : Bool :=
  let w := op.toNat
  let family := w / 4096
  if family == 0x0 then wfFamily0 w
  else if family == 0x5 || family == 0x9 then wfFamily59 w
  else if family == 0x8 then wfFamily8 w
  else if family == 0xE then wfFamilyE w
  else if family == 0xF then wfFamilyF w
  else true

/-- A program fits when `0x200 + L <= 4096` for its length L (R202, R176). -/
def programFits (bytes : List Byte) : Bool := decide (0x200 + bytes.length ≤ 4096)

end Sys2Proof
end

