-- ==== Sys2Proof/Decode.lean ====
section
/-! DEFINITION. The decoder (30_encoding.md R77, total, refusing by name), the encoder (R74, R78), the opcode map as a
table (R78), and `decodeTableWord`, the decoder asked with a word of the opcode table. -/

namespace Sys2Proof

/-- Why a byte sequence is no instruction: it ends inside the 2-byte word (R74), or its word is one of the unrecognised
words of the family named (R79). -/
inductive DecodeReject where
  | truncated
  | family0
  | family5
  | family8
  | family9
  | familyE
  | familyF
  deriving DecidableEq, Repr

/-! ## Fields (R8, R9, R75, R76) -/

/-- X = op[11:8]. -/
def fieldX (op : Word) : Reg := Fin.ofNat 16 (op.toNat / 256)

/-- Y = op[7:4]. -/
def fieldY (op : Word) : Reg := Fin.ofNat 16 (op.toNat / 16)

/-- N = op[3:0]. -/
def fieldN (op : Word) : BitVec 4 := BitVec.ofNat 4 op.toNat

/-- NN = op[7:0]. -/
def fieldNN (op : Word) : Byte := BitVec.ofNat 8 op.toNat

/-- NNN = op[11:0]. -/
def fieldNNN (op : Word) : BitVec 12 := BitVec.ofNat 12 op.toNat

/-! ## The decoder (R77) -/

/-- Family 8, by op[3:0]. -/
def decodeFamily8 (op : Word) : Except DecodeReject Instr :=
  match op.toNat % 16 with
  | 0x0 => .ok (.ldReg (fieldX op) (fieldY op))
  | 0x1 => .ok (.orReg (fieldX op) (fieldY op))
  | 0x2 => .ok (.andReg (fieldX op) (fieldY op))
  | 0x3 => .ok (.xorReg (fieldX op) (fieldY op))
  | 0x4 => .ok (.addReg (fieldX op) (fieldY op))
  | 0x5 => .ok (.subReg (fieldX op) (fieldY op))
  | 0x6 => .ok (.shrReg (fieldX op) (fieldY op))
  | 0x7 => .ok (.subnReg (fieldX op) (fieldY op))
  | 0xE => .ok (.shlReg (fieldX op) (fieldY op))
  | _ => .error .family8

/-- Family E, by op[7:0]. -/
def decodeFamilyE (op : Word) : Except DecodeReject Instr :=
  match op.toNat % 256 with
  | 0x9E => .ok (.skp (fieldX op))
  | 0xA1 => .ok (.sknp (fieldX op))
  | _ => .error .familyE

/-- Family F, by op[7:0]. -/
def decodeFamilyF (op : Word) : Except DecodeReject Instr :=
  match op.toNat % 256 with
  | 0x07 => .ok (.ldVxDt (fieldX op))
  | 0x0A => .ok (.ldVxK (fieldX op))
  | 0x15 => .ok (.ldDtVx (fieldX op))
  | 0x18 => .ok (.ldStVx (fieldX op))
  | 0x1E => .ok (.addI (fieldX op))
  | 0x29 => .ok (.ldF (fieldX op))
  | 0x33 => .ok (.ldB (fieldX op))
  | 0x55 => .ok (.storeRegs (fieldX op))
  | 0x65 => .ok (.loadRegs (fieldX op))
  | _ => .error .familyF

/-- The two-level decode of R77: the top nibble first, then the closed set of the family. The last arm is the top nibble
0xF, the one value of op[15:12] left. -/
def decodeWord (op : Word) : Except DecodeReject Instr :=
  match op.toNat / 4096 with
  | 0x0 => if op = 0x00E0#16 then .ok .cls else if op = 0x00EE#16 then .ok .ret else .error .family0
  | 0x1 => .ok (.jp (fieldNNN op))
  | 0x2 => .ok (.call (fieldNNN op))
  | 0x3 => .ok (.seImm (fieldX op) (fieldNN op))
  | 0x4 => .ok (.sneImm (fieldX op) (fieldNN op))
  | 0x5 => if op.toNat % 16 = 0 then .ok (.seReg (fieldX op) (fieldY op)) else .error .family5
  | 0x6 => .ok (.ldImm (fieldX op) (fieldNN op))
  | 0x7 => .ok (.addImm (fieldX op) (fieldNN op))
  | 0x8 => decodeFamily8 op
  | 0x9 => if op.toNat % 16 = 0 then .ok (.sneReg (fieldX op) (fieldY op)) else .error .family9
  | 0xA => .ok (.ldI (fieldNNN op))
  | 0xB => .ok (.jpV0 (fieldNNN op))
  | 0xC => .ok (.rnd (fieldX op) (fieldNN op))
  | 0xD => .ok (.drw (fieldX op) (fieldY op) (fieldN op))
  | 0xE => decodeFamilyE op
  | _ => decodeFamilyF op

/-- Decode the instruction at the head of a byte sequence, first byte the high byte (R56, R74); the answer holds the
bytes after it. Total: any bytes. -/
def decode : List Byte → Except DecodeReject (Instr × List Byte)
  | hi :: lo :: rest =>
    match decodeWord (wordOf hi lo) with
    | .ok i => .ok (i, rest)
    | .error e => .error e
  | _ => .error .truncated

/-! ## The encoder (R74, R78) -/

/-- Format NNN: the opcode and a 12-bit immediate. -/
def formatNNN (opcode : Nat) (nnn : BitVec 12) : Word := BitVec.ofNat 16 (opcode * 4096 + nnn.toNat)

/-- Format XNN: the opcode, X and an 8-bit immediate. -/
def formatXNN (opcode : Nat) (x : Reg) (nn : Byte) : Word :=
  BitVec.ofNat 16 (opcode * 4096 + x.val * 256 + nn.toNat)

/-- Formats XY and XYN: the opcode, X, Y and a low nibble (the function, or N). -/
def formatXYN (opcode : Nat) (x y : Reg) (low : Nat) : Word :=
  BitVec.ofNat 16 (opcode * 4096 + x.val * 256 + y.val * 16 + low)

/-- Format XK: the opcode, X and a fixed low byte. -/
def formatXK (opcode : Nat) (x : Reg) (function : Nat) : Word :=
  BitVec.ofNat 16 (opcode * 4096 + x.val * 256 + function)

/-- The word of an instruction. -/
def encodeWord : Instr → Word
  | .cls => 0x00E0#16
  | .ret => 0x00EE#16
  | .jp nnn => formatNNN 0x1 nnn
  | .call nnn => formatNNN 0x2 nnn
  | .seImm x nn => formatXNN 0x3 x nn
  | .sneImm x nn => formatXNN 0x4 x nn
  | .seReg x y => formatXYN 0x5 x y 0x0
  | .ldImm x nn => formatXNN 0x6 x nn
  | .addImm x nn => formatXNN 0x7 x nn
  | .ldReg x y => formatXYN 0x8 x y 0x0
  | .orReg x y => formatXYN 0x8 x y 0x1
  | .andReg x y => formatXYN 0x8 x y 0x2
  | .xorReg x y => formatXYN 0x8 x y 0x3
  | .addReg x y => formatXYN 0x8 x y 0x4
  | .subReg x y => formatXYN 0x8 x y 0x5
  | .shrReg x y => formatXYN 0x8 x y 0x6
  | .subnReg x y => formatXYN 0x8 x y 0x7
  | .shlReg x y => formatXYN 0x8 x y 0xE
  | .sneReg x y => formatXYN 0x9 x y 0x0
  | .ldI nnn => formatNNN 0xA nnn
  | .jpV0 nnn => formatNNN 0xB nnn
  | .rnd x nn => formatXNN 0xC x nn
  | .drw x y n => formatXYN 0xD x y n.toNat
  | .skp x => formatXK 0xE x 0x9E
  | .sknp x => formatXK 0xE x 0xA1
  | .ldVxDt x => formatXK 0xF x 0x07
  | .ldVxK x => formatXK 0xF x 0x0A
  | .ldDtVx x => formatXK 0xF x 0x15
  | .ldStVx x => formatXK 0xF x 0x18
  | .addI x => formatXK 0xF x 0x1E
  | .ldF x => formatXK 0xF x 0x29
  | .ldB x => formatXK 0xF x 0x33
  | .storeRegs x => formatXK 0xF x 0x55
  | .loadRegs x => formatXK 0xF x 0x65

/-- The high byte of a word, stored at the lower address (R56). -/
def highByte (w : Word) : Byte := BitVec.ofNat 8 (w.toNat / 256)

/-- The low byte of a word, stored at the higher address (R56). -/
def lowByte (w : Word) : Byte := BitVec.ofNat 8 w.toNat

/-- The words of an instruction: always one (R74). -/
def encode (i : Instr) : List Word := [encodeWord i]

/-- The bytes of an instruction as memory holds them, lowest address first (R56). -/
def encodeBytes (i : Instr) : List Byte := [highByte (encodeWord i), lowByte (encodeWord i)]

/-! ## The opcode map (R78) -/

/-- The `mask` and `match` columns of R78, row by row in the table's order. -/
def opcodeMap : List (Word × Word) :=
  [(0xFFFF#16, 0x00E0#16), (0xFFFF#16, 0x00EE#16), (0xF000#16, 0x1000#16), (0xF000#16, 0x2000#16),
   (0xF000#16, 0x3000#16), (0xF000#16, 0x4000#16), (0xF00F#16, 0x5000#16), (0xF000#16, 0x6000#16),
   (0xF000#16, 0x7000#16)]
  ++ [(0xF00F#16, 0x8000#16), (0xF00F#16, 0x8001#16), (0xF00F#16, 0x8002#16), (0xF00F#16, 0x8003#16),
   (0xF00F#16, 0x8004#16), (0xF00F#16, 0x8005#16), (0xF00F#16, 0x8006#16), (0xF00F#16, 0x8007#16),
   (0xF00F#16, 0x800E#16)]
  ++ [(0xF00F#16, 0x9000#16), (0xF000#16, 0xA000#16), (0xF000#16, 0xB000#16), (0xF000#16, 0xC000#16),
   (0xF000#16, 0xD000#16), (0xF0FF#16, 0xE09E#16), (0xF0FF#16, 0xE0A1#16)]
  ++ [(0xF0FF#16, 0xF007#16), (0xF0FF#16, 0xF00A#16), (0xF0FF#16, 0xF015#16), (0xF0FF#16, 0xF018#16),
   (0xF0FF#16, 0xF01E#16), (0xF0FF#16, 0xF029#16), (0xF0FF#16, 0xF033#16), (0xF0FF#16, 0xF055#16),
   (0xF0FF#16, 0xF065#16)]

/-- The word selects the row exactly when `(op and mask) = match` (R78). -/
def rowMatches (op : Word) (row : Word × Word) : Bool := (op &&& row.1) == row.2

/-- The row of R78 an instruction stands in (its "#" column, less one). -/
def Instr.row : Instr → Nat
  | .cls => 0 | .ret => 1 | .jp _ => 2 | .call _ => 3 | .seImm _ _ => 4 | .sneImm _ _ => 5 | .seReg _ _ => 6
  | .ldImm _ _ => 7 | .addImm _ _ => 8 | .ldReg _ _ => 9 | .orReg _ _ => 10 | .andReg _ _ => 11
  | .xorReg _ _ => 12 | .addReg _ _ => 13 | .subReg _ _ => 14 | .shrReg _ _ => 15 | .subnReg _ _ => 16
  | .shlReg _ _ => 17 | .sneReg _ _ => 18 | .ldI _ => 19 | .jpV0 _ => 20 | .rnd _ _ => 21 | .drw _ _ _ => 22
  | .skp _ => 23 | .sknp _ => 24 | .ldVxDt _ => 25 | .ldVxK _ => 26 | .ldDtVx _ => 27 | .ldStVx _ => 28
  | .addI _ => 29 | .ldF _ => 30 | .ldB _ => 31 | .storeRegs _ => 32 | .loadRegs _ => 33

/-! ## The decoder asked with a word of the opcode table -/

/-- The 16-bit word that an `nbits`-bit table word `w` is, every bit above `nbits` zero. The table's bit 0 is the least
significant bit of the one word every instruction has (R74). -/
def tableWord (nbits w : Nat) : Word := BitVec.ofNat 16 (w % 2 ^ nbits)

/-- The instruction the decoder reads from the word, laid out in bytes as memory holds it (R56). -/
def decodeTableWord (nbits w : Nat) : Option Instr :=
  match decode [highByte (tableWord nbits w), lowByte (tableWord nbits w)] with
  | .ok (i, _) => some i
  | .error _ => none

end Sys2Proof
end

