-- ==== Sys2Proof/Config.lean ====
section
/-! DEFINITION. What the spec leaves to the implementation (00_scope.md R6, 10_state.md R32) and the one free value, the
random byte of each Step (10_state.md R41). The default parameter values stand in Machine/Params.lean. -/

namespace Sys2Proof

/-- The parameters of one machine; they never change during a run (R32). -/
structure Config where
  /-- SHIFT_SRC_VY: true, 8XY6 and 8XYE shift VY into VX; false, they shift VX in place (R6, D13). -/
  shiftSrcVY : Bool
  /-- FONT[0..79], the bytes at 0x000 to 0x04F (R6, R53, D17). -/
  font : Vector Byte 80
  deriving DecidableEq, Repr

/-- FREE VALUE. `Config.rnd n` is the input byte of the Step that takes draw number `n`: any byte, under no law, not
even that it differs between Steps (R41, R131, D22). It has no body, so nothing can be proved of its value. -/
opaque Config.rnd : Nat → Byte

end Sys2Proof
end

