-- ==== Sys2Proof/Machine/Params.lean ====
section
/-! DEFINITION. The default values of the two parameters (00_scope.md R6) and the reset contents of memory
(20_memory.md R51, 10_state.md R34). -/

namespace Sys2Proof.Machine

/-- The default FONT of R53, one glyph a line, digits 0 to F. PRESUMED (the spec marks the bytes "from general knowledge,
not in source", G1): log entry 7. -/
def defaultFont : Vector Byte 80 :=
  #v[0xF0, 0x90, 0x90, 0x90, 0xF0,
     0x20, 0x60, 0x20, 0x20, 0x70,
     0xF0, 0x10, 0xF0, 0x80, 0xF0,
     0xF0, 0x10, 0xF0, 0x10, 0xF0,
     0x90, 0x90, 0xF0, 0x10, 0x10,
     0xF0, 0x80, 0xF0, 0x10, 0xF0,
     0xF0, 0x80, 0xF0, 0x90, 0xF0,
     0xF0, 0x10, 0x20, 0x40, 0x40,
     0xF0, 0x90, 0xF0, 0x90, 0xF0,
     0xF0, 0x90, 0xF0, 0x10, 0xF0,
     0xF0, 0x90, 0xF0, 0x90, 0x90,
     0xE0, 0x90, 0xE0, 0x90, 0xE0,
     0xF0, 0x80, 0x80, 0x80, 0xF0,
     0xE0, 0x90, 0x90, 0x90, 0xE0,
     0xF0, 0x80, 0xF0, 0x80, 0xF0,
     0xF0, 0x80, 0xF0, 0x80, 0x80]

/-- SHIFT_SRC_VY by default: "the source exhibits the VY-sourced variant" (R6, D13). Log entry 6. -/
def defaultShiftSrcVY : Bool := true

/-- The default configuration (R6). -/
def defaultConfig : Config := { shiftSrcVY := defaultShiftSrcVY, font := defaultFont }

/-- The byte at an address after Reset: FONT at 0x000 to 0x04F, 0 elsewhere (R34, R51, R200). -/
def resetByte (a : Nat) : Byte := if h : a < 80 then defaultFont[a] else 0

end Sys2Proof.Machine
end

