-- ==== Sys2Proof/Machine/Memory.lean ====
section
/-! DEFINITION. The 4096-byte memory (20_memory.md R50, R51) as a list of cells in one canonical form: addresses strictly
rising, no cell equal to what an unlisted address reads as. An unlisted address reads as after Reset. -/

namespace Sys2Proof.Machine

/-- The listed cells of memory. -/
abbrev Memory := List Host.Cell

/-- The canonical form: addresses strictly rise, lie below 4096, and no cell repeats the reset byte. -/
abbrev Memory.wf (m : Memory) : Prop :=
  m.Pairwise (fun c d => c.1 < d.1) ∧ ∀ c ∈ m, c.1 < 4096 ∧ c.2 ≠ resetByte c.1

/-- The byte at an address. -/
def Memory.read : Memory → Nat → Byte
  | [], a => resetByte a
  | (k, b) :: m, a => if k = a then b else Memory.read m a

/-- Put a cell before the first cell of a higher address. -/
def Memory.insertCell (a : Nat) (b : Byte) : Memory → Memory
  | [] => [(a, b)]
  | (k, c) :: m => if a < k then (a, b) :: (k, c) :: m else (k, c) :: Memory.insertCell a b m

/-- Store a byte; storing the reset byte unlists the address, so equal memories are equal lists. -/
def Memory.write (m : Memory) (a : Nat) (b : Byte) : Memory :=
  let rest := m.filter (fun c => c.1 != a)
  if b = resetByte a then rest else Memory.insertCell a b rest

/-- Store consecutive bytes, ascending addresses from `a` (R59, R146, R202). -/
def Memory.writeBlock (m : Memory) (a : Nat) : List Byte → Memory
  | [] => m
  | b :: bs => Memory.writeBlock (m.write a b) (a + 1) bs

end Sys2Proof.Machine
end

