-- ==== Sys2Proof/Machine/State.lean ====
section
/-! DEFINITION. The machine's state (10_state.md R20 to R34) as plain data, its reset value (R34, R200), the statuses
(60_exceptions.md R170) and the outcome types of a step. -/

namespace Sys2Proof.Machine

/-- The 64 by 32 one-bit display: row y is entry y, and the cell at column x is bit x of its row, so that row-major
index y*64 + x of R30 is bit x of entry y. -/
abbrev Display := Vector (BitVec 64) 32

/-- The status a Step ends with, and the info it records (R42, R170). Addresses of AddressFault are unbounded (R146). -/
inductive Status where
  | ok
  | unknownOpcode (op : Word) (a : Word)
  | stackOverflow (a : Word)
  | stackUnderflow (a : Word)
  | addressFault (addr : Nat)
  | keyIndexFault (v : Byte)
  deriving DecidableEq, Repr

/-- What one Step outputs beside the new state: its status and three one-bit signals (R42). -/
structure StepOut where
  status : Status
  halted : Bool
  displayDirty : Bool
  keyWait : Bool
  deriving DecidableEq, Repr

/-- The output of a step with the given status and no signal raised. -/
def StepOut.quiet (st : Status) : StepOut :=
  { status := st, halted := false, displayDirty := false, keyWait := false }

/-- An event of the host or the timer unit between two Steps (R40, R203). Reset and Load are not among them: they begin a
run (`State.resetEvent`, `State.load`). -/
inductive InputEvent where
  | setKeys (k : BitVec 16)
  | ackAudio
  | readDisplay
  | tick
  deriving DecidableEq, Repr

/-- The whole machine. The first eleven fields are the spec's state, a closed list (R33, R34); the rest are the model's
own, each named in INVENTORY.md. -/
structure State where
  /-- V0 to VF (R20, R21). -/
  v : Vector Byte 16
  /-- The program counter (R22). -/
  pc : Word
  /-- The index register I (R23). -/
  i : Word
  /-- The return stack (R24). -/
  stack : Vector Word 16
  /-- The stack pointer: the number of entries in use, 0 to 16 (R25). -/
  sp : Fin 17
  /-- The delay timer DT (R26). -/
  dt : Byte
  /-- The sound timer ST (R27). -/
  st : Byte
  /-- The audio latch (R28). -/
  playAudio : Bool
  /-- The keypad latch, bit k for key k (R29). -/
  keypad : BitVec 16
  /-- The display buffer (R30). -/
  display : Display
  /-- Memory (R31). -/
  memory : Memory
  /-- The machine's parameters, never changed by a step (R32; log entry 6). -/
  config : Config
  /-- The input byte of the current Step (R41; log entry 4). -/
  rnd : Byte
  /-- How many Step inputs have been taken: the counter of the free value `Config.rnd` (log entry 4). -/
  draws : Nat
  /-- The events that come before each coming Step, nearest Step first (R40, R203; log entry 5). -/
  inputs : List (List InputEvent)
  /-- The outputs of the last Step (R42; log entry 2). -/
  out : StepOut
  /-- The first non-Ok status since Reset, sticky (R188; log entry 3). -/
  firstNonOk : Option Status
  deriving DecidableEq, Repr

/-- Why the machine stops with a fault: never. Every anomaly of this hardware is reported as the status of the step that
met it and execution continues (R170, R179), so no instruction and no fetch raises a fault; the type has no value, which
is exact, neither safe nor unsafe. -/
inductive Fault where
  deriving DecidableEq, Repr

/-- Why a step has no meaning. -/
inductive Refusal where
  /-- An instruction with no meaning yet. Safe: nothing is proved of it. No arm of `exec` raises it now. -/
  | notModelled (mnemonic : String)
  deriving DecidableEq, Repr

/-- The answer of a meaning. -/
abbrev Result := Host.Outcome State Fault Refusal

/-- Right after Reset with the default parameters: the table of R34. The model's own fields: log entries 2 to 6. -/
def State.reset : State where
  v := Vector.replicate 16 0
  pc := 0x200
  i := 0
  stack := Vector.replicate 16 0
  sp := 0
  dt := 0
  st := 0
  playAudio := false
  keypad := 0
  display := Vector.replicate 32 0
  memory := []
  config := defaultConfig
  rnd := 0
  draws := 0
  inputs := []
  out := StepOut.quiet .ok
  firstNonOk := none

end Sys2Proof.Machine
end

