-- ==== Sys2Proof/Machine/Flags.lean ====
section
/-! DEFINITION. The values VF takes as a flag (10_state.md R21). -/

namespace Sys2Proof.Machine

/-- A flag value is the byte 0 or 1 (R21). -/
def flagByte (b : Bool) : Byte := if b then 1 else 0

/-- Carry out of bit 7: the exact sum passes 255 (R126). -/
def carryOut (x y : Byte) : Bool := decide (255 < x.toNat + y.toNat)

/-- No borrow in `a - b`: `a >= b`, equal operands included (R127, R129, D23). -/
def noBorrow (a b : Byte) : Bool := decide (b.toNat ≤ a.toNat)

/-- The bit a shift right by one drops: bit 0 (R128). -/
def droppedLow (s : Byte) : Bool := s.getLsbD 0

/-- The bit a shift left by one drops: bit 7 (R130). -/
def droppedHigh (s : Byte) : Bool := s.getLsbD 7

end Sys2Proof.Machine
end

