-- ==== Sys2Proof/Machine/Operands.lean ====
section
/-! DEFINITION. Operand forms (30_encoding.md R76): registers, immediates, and memory indirect through I with its range
check (42_index_memory.md R146, 20_memory.md R57, R58). -/

namespace Sys2Proof.Machine

/-! ## Registers -/

/-- V[r] (R10, R20). -/
def State.reg (s : State) (r : Reg) : Byte := s.v[r.val]

/-- V[r] <- b (R10, R20); no register is hard-wired. -/
def State.setReg (s : State) (r : Reg) (b : Byte) : State := { s with v := s.v.set r.val b }

/-- The operand a shift works on: VY or VX, by SHIFT_SRC_VY (R128, R130). -/
def shiftSource (srcVY : Bool) (x y : Byte) : Byte := if srcVY then y else x

/-! ## Immediates (R76: zero-extended, unscaled) -/

/-- NNN as a 16-bit address. -/
def addressOf (nnn : BitVec 12) : Word := BitVec.ofNat 16 nnn.toNat

/-! ## Memory indirect through I (R146) -/

/-- The effective address of element k: the unbounded `I + k`, never reduced (R146). -/
def State.effective (s : State) (k : Nat) : Nat := s.i.toNat + k

/-- A data read may touch any address of memory (R57). -/
def readable (a : Nat) : Bool := decide (a < 4096)

/-- A data write may touch any address of memory above the font (R58). -/
def writable (a : Nat) : Bool := decide (0x050 ≤ a) && decide (a < 4096)

/-- The lowest of the `n` addresses from `a` that fails the check, if any (R146). -/
def firstBad (check : Nat → Bool) (a : Nat) : Nat → Option Nat
  | 0 => none
  | n + 1 => if check a then firstBad check (a + 1) n else some a

/-- The range check of an instruction that reads `n` bytes at I (R57, R145, R152). -/
def State.badRead (s : State) (n : Nat) : Option Nat := firstBad readable (s.effective 0) n

/-- The range check of an instruction that writes `n` bytes at I (R58, R143, R144). -/
def State.badWrite (s : State) (n : Nat) : Option Nat := firstBad writable (s.effective 0) n

/-- The byte at element k (R57). -/
def State.element (s : State) (k : Nat) : Byte := s.memory.read (s.effective k)

/-- The values of V0 to VX, ascending (R144). -/
def State.regsThrough (s : State) (x : Reg) : List Byte := s.v.toList.take (x.val + 1)

/-- The three decimal digits of a byte: hundreds, tens, ones (R143). -/
def decimalDigits (b : Byte) : List Byte :=
  [BitVec.ofNat 8 (b.toNat / 100), BitVec.ofNat 8 (b.toNat / 10 % 10), BitVec.ofNat 8 (b.toNat % 10)]

end Sys2Proof.Machine
end

