-- ==== Sys2Proof/Machine/Ops.lean ====
section
/-! DEFINITION. The named operations over the state that the meanings share: how an instruction ends, how it raises a
status, the fetch, the skip, the stack, the register result with its flag, the display. -/

namespace Sys2Proof.Machine

/-! ## Updates of one part of the state -/

/-- Write the program counter. -/
def State.setPc (s : State) (a : Word) : State := { s with pc := a }

/-- Write the index register. -/
def State.setI (s : State) (a : Word) : State := { s with i := a }

/-- Write the delay timer. -/
def State.setDt (s : State) (b : Byte) : State := { s with dt := b }

/-- Write the sound timer. -/
def State.setSt (s : State) (b : Byte) : State := { s with st := b }

/-- Write the display. -/
def State.setDisplay (s : State) (d : Display) : State := { s with display := d }

/-- Write memory. -/
def State.setMemory (s : State) (m : Memory) : State := { s with memory := m }

/-! ## How a step ends (10_state.md R42, 60_exceptions.md R170) -/

/-- The non-Ok status of a step, if it has one. -/
def Status.nonOk : Status → Option Status
  | .ok => none
  | st => some st

/-- Put out the outputs of the step, and keep the first non-Ok status (R42, R188). -/
def State.report (s : State) (o : StepOut) : State :=
  { s with out := o, firstNonOk := s.firstNonOk.or o.status.nonOk }

/-- The step ends with status Ok and no signal. -/
def State.finish (s : State) : State := s.report (StepOut.quiet .ok)

/-- The step ends with status Ok and the signal displayDirty (R42, R150, R152). -/
def State.finishDrawn (s : State) : State := s.report { StepOut.quiet .ok with displayDirty := true }

/-- The step ends with status Ok and the signal keyWait (R42, R163). -/
def State.finishWaiting (s : State) : State := s.report { StepOut.quiet .ok with keyWait := true }

/-- The step ends with status Ok and the signal halted (R72). -/
def State.finishHalted (s : State) : State := s.report { StepOut.quiet .ok with halted := true }

/-- `raise S(info)` (R10, R170): this machine's only exception. The caller passes the state the instruction started
from, so every write of the instruction is dropped and the pc advance of the fetch stands (for a fetch fault, the state
before the fetch, so not even that). Nothing is saved, masked or pushed and control goes nowhere (R179); there is no
return from it, since nothing is to be restored (R180). -/
def State.raise (s : State) (st : Status) : State := s.report (StepOut.quiet st)

/-! ## Fetch (30_encoding.md R70 to R73) -/

/-- What the fetch of a step finds. -/
inductive Fetched where
  | halted
  | beyond (addr : Nat)
  | bytes (hi lo : Byte)
  deriving DecidableEq, Repr

/-- The fetch: halted when `pc >= 4096` (R72), AddressFault(4096) at `pc = 0xFFF` (R73), else the two bytes at pc and
pc + 1 (R56, R71). -/
def State.fetch (s : State) : Fetched :=
  if 4096 ≤ s.pc.toNat then .halted
  else if s.pc.toNat = 4095 then .beyond 4096
  else .bytes (s.memory.read s.pc.toNat) (s.memory.read (s.pc.toNat + 1))

/-- Advance pc by the 2 bytes of the instruction, before dispatch (R71). -/
def State.advance (s : State) : State := s.setPc (s.pc + 2)

/-- The address the executing instruction was fetched from, `pc - 2` (R10). -/
def State.fetchedAt (s : State) : Word := s.pc - 2

/-! ## Control flow (40_flow.md) -/

/-- A skip moves pc 2 further when the condition holds (R71 c, R104). -/
def State.skipIf (s : State) (c : Bool) : State := if c then s.setPc (s.pc + 2) else s

/-- Push an address: store, then increment; none when all 16 entries are in use (R25, R102). -/
def State.push (s : State) (a : Word) : Option State :=
  if h : s.sp.val < 16 then
    some { s with stack := s.stack.set s.sp.val a, sp := ⟨s.sp.val + 1, by omega⟩ }
  else none

/-- Pop an address: decrement, then load; none when no entry is in use (R25, R100). The entry keeps its value (R24). -/
def State.pop (s : State) : Option (Word × State) :=
  if h : 0 < s.sp.val then
    some (s.stack[s.sp.val - 1], { s with sp := ⟨s.sp.val - 1, by omega⟩ })
  else none

/-! ## Results with a flag (41_alu.md R133) -/

/-- Write the result to V[X], then the flag to VF: with X = 0xF the flag stays (R133). -/
def State.setResultFlag (s : State) (x : Reg) (result : Byte) (flag : Bool) : State :=
  (s.setReg x result).setReg flagReg (flagByte flag)

/-- The sum of two bytes modulo 256 (R121, R126). -/
def addBytes (x y : Byte) : Byte := BitVec.ofNat 8 (x.toNat + y.toNat)

/-- The difference of two bytes modulo 256: `(a + 256 - b) mod 256` (R127, R129). -/
def subBytes (a b : Byte) : Byte := BitVec.ofNat 8 (a.toNat + 256 - b.toNat)

/-- Logical shift right by one (R128). -/
def shiftRightOne (b : Byte) : Byte := BitVec.ofNat 8 (b.toNat / 2)

/-- Logical shift left by one (R130). -/
def shiftLeftOne (b : Byte) : Byte := BitVec.ofNat 8 (b.toNat * 2)

/-! ## Memory blocks (42_index_memory.md) -/

/-- Store bytes at I, ascending (R143, R144). -/
def State.storeAtI (s : State) (bs : List Byte) : State :=
  s.setMemory (s.memory.writeBlock (s.effective 0) bs)

/-- Load V0 to VX from memory at I (R145); registers above X keep their value. -/
def State.loadThrough (s : State) (x : Reg) : State :=
  { s with v := Vector.ofFn fun r : Reg => if r.val ≤ x.val then s.element r.val else s.reg r }

/-! ## Keypad (44_timer_key.md) -/

/-- The latched state of key k (R29). -/
def State.keyDown (s : State) (k : Nat) : Bool := s.keypad.getLsbD k

/-- The least pressed key (R163). -/
def State.lowestKey (s : State) : Option Nat := (List.range 16).find? s.keyDown

/-! ## Display (43_display.md) -/

/-- The cell at column x, row y (R30). -/
def Display.pixel (d : Display) (x : Fin 64) (y : Fin 32) : Bool := d[y.val].getLsbD x.val

/-- Xor a 1 into the cell at column x, row y. -/
def Display.toggle (d : Display) (x : Fin 64) (y : Fin 32) : Display :=
  d.set y.val (d[y.val] ^^^ BitVec.twoPow 64 x.val)

/-- The display with every cell 0 (R150). -/
def Display.clear : Display := Vector.replicate 32 0

/-- A draw in progress: the display so far, and whether a cell went from on to off. -/
structure Draw where
  display : Display
  hit : Bool
  deriving DecidableEq, Repr

/-- The inner step of R152's loop: pixel (r, c) of the sprite, whose row byte is `b`, at origin (x0, y0). Column c is bit
`7 - c` of the row byte (R151; PRESUMED by the spec, D18: log entry 8), and coordinates wrap (R151). -/
def Draw.pixel (x0 y0 r : Nat) (b : Byte) (d : Draw) (c : Nat) : Draw :=
  if b.getLsbD (7 - c) then
    let px := Fin.ofNat 64 (x0 + c)
    let py := Fin.ofNat 32 (y0 + r)
    { display := d.display.toggle px py, hit := d.hit || d.display.pixel px py }
  else d

/-- One row of the sprite, left to right (R152). -/
def Draw.row (x0 y0 : Nat) (bytes : Nat → Byte) (d : Draw) (r : Nat) : Draw :=
  (List.range 8).foldl (Draw.pixel x0 y0 r (bytes r)) d

/-- A sprite of `n` rows, top row first (R152). -/
def Draw.sprite (x0 y0 n : Nat) (bytes : Nat → Byte) (d : Display) : Draw :=
  (List.range n).foldl (Draw.row x0 y0 bytes) { display := d, hit := false }

end Sys2Proof.Machine
end

