-- ==== Sys2Proof/Machine/Alu.lean ====
section
/-! DEFINITION. Register and ALU instructions (41_alu.md R120 to R133). On entry pc is already the address of the next
instruction (R71), and no status can be raised. -/

namespace Sys2Proof.Machine

/-- 6XNN, LD VX, NN (R120). -/
def execLdImm (x : Reg) (nn : Byte) (s : State) : Result := .next (s.setReg x nn).finish

/-- 7XNN, ADD VX, NN: wraps modulo 256, VF untouched (R121). -/
def execAddImm (x : Reg) (nn : Byte) (s : State) : Result := .next (s.setReg x (addBytes (s.reg x) nn)).finish

/-- 8XY0, LD VX, VY (R122). -/
def execLdReg (x y : Reg) (s : State) : Result := .next (s.setReg x (s.reg y)).finish

/-- 8XY1, OR VX, VY: VF untouched (R123, C2). -/
def execOrReg (x y : Reg) (s : State) : Result := .next (s.setReg x (s.reg x ||| s.reg y)).finish

/-- 8XY2, AND VX, VY: VF untouched (R124, C2). -/
def execAndReg (x y : Reg) (s : State) : Result := .next (s.setReg x (s.reg x &&& s.reg y)).finish

/-- 8XY3, XOR VX, VY: VF untouched (R125, C2). -/
def execXorReg (x y : Reg) (s : State) : Result := .next (s.setReg x (s.reg x ^^^ s.reg y)).finish

/-- 8XY4, ADD VX, VY with carry out (R126). -/
def execAddReg (x y : Reg) (s : State) : Result :=
  .next (s.setResultFlag x (addBytes (s.reg x) (s.reg y)) (carryOut (s.reg x) (s.reg y))).finish

/-- 8XY5, SUB VX, VY (R127). -/
def execSubReg (x y : Reg) (s : State) : Result :=
  .next (s.setResultFlag x (subBytes (s.reg x) (s.reg y)) (noBorrow (s.reg x) (s.reg y))).finish

/-- 8XY6, SHR VX, VY (R128). -/
def execShrReg (x y : Reg) (s : State) : Result :=
  let b := shiftSource s.config.shiftSrcVY (s.reg x) (s.reg y)
  .next (s.setResultFlag x (shiftRightOne b) (droppedLow b)).finish

/-- 8XY7, SUBN VX, VY: V[Y] - V[X] to V[X] (R129). -/
def execSubnReg (x y : Reg) (s : State) : Result :=
  .next (s.setResultFlag x (subBytes (s.reg y) (s.reg x)) (noBorrow (s.reg y) (s.reg x))).finish

/-- 8XYE, SHL VX, VY (R130). -/
def execShlReg (x y : Reg) (s : State) : Result :=
  let b := shiftSource s.config.shiftSrcVY (s.reg x) (s.reg y)
  .next (s.setResultFlag x (shiftLeftOne b) (droppedHigh b)).finish

/-- CXNN, RND VX, NN: the input byte of this Step, masked (R131). -/
def execRnd (x : Reg) (nn : Byte) (s : State) : Result := .next (s.setReg x (s.rnd &&& nn)).finish

end Sys2Proof.Machine
end

