-- ==== Sys2Proof/Machine/Flow.lean ====
section
/-! DEFINITION. Control transfer (40_flow.md R100 to R107). On entry pc is already the address of the next instruction
(R71). -/

namespace Sys2Proof.Machine

/-- 00EE, RET: StackUnderflow when no entry is in use (R100, R173). -/
def execRet (s : State) : Result :=
  match s.pop with
  | some (a, t) => .next (t.setPc a).finish
  | none => .next (s.raise (.stackUnderflow s.fetchedAt))

/-- 1NNN, JP NNN: no check of the target (R101). -/
def execJp (nnn : BitVec 12) (s : State) : Result := .next (s.setPc (addressOf nnn)).finish

/-- 2NNN, CALL NNN: pushes the advanced pc; StackOverflow when all entries are in use (R102, R172). -/
def execCall (nnn : BitVec 12) (s : State) : Result :=
  match s.push s.pc with
  | some t => .next (t.setPc (addressOf nnn)).finish
  | none => .next (s.raise (.stackOverflow s.fetchedAt))

/-- BNNN, JP V0, NNN: the sum is not masked (R103). -/
def execJpV0 (nnn : BitVec 12) (s : State) : Result :=
  .next (s.setPc (BitVec.ofNat 16 (nnn.toNat + (s.reg 0).toNat))).finish

/-- 3XNN, SE VX, NN (R104). -/
def execSeImm (x : Reg) (nn : Byte) (s : State) : Result := .next (s.skipIf (s.reg x == nn)).finish

/-- 4XNN, SNE VX, NN (R105). -/
def execSneImm (x : Reg) (nn : Byte) (s : State) : Result := .next (s.skipIf (s.reg x != nn)).finish

/-- 5XY0, SE VX, VY (R106). -/
def execSeReg (x y : Reg) (s : State) : Result := .next (s.skipIf (s.reg x == s.reg y)).finish

/-- 9XY0, SNE VX, VY (R107). -/
def execSneReg (x y : Reg) (s : State) : Result := .next (s.skipIf (s.reg x != s.reg y)).finish

end Sys2Proof.Machine
end

