-- ==== Sys2Proof/Machine/IndexMemory.lean ====
section
/-! DEFINITION. Index register and memory instructions (42_index_memory.md R140 to R146). pc stays at the address of the
next instruction in every case; I is never changed by FX33, FX55, FX65 (R146, D14). -/

namespace Sys2Proof.Machine

/-- ANNN, LD I, NNN (R140). -/
def execLdI (nnn : BitVec 12) (s : State) : Result := .next (s.setI (addressOf nnn)).finish

/-- FX1E, ADD I, VX: modulo 65536, no flag (R141). -/
def execAddI (x : Reg) (s : State) : Result :=
  .next (s.setI (BitVec.ofNat 16 (s.i.toNat + (s.reg x).toNat))).finish

/-- FX29, LD F, VX: five times the whole byte, no mask (R142, D20). -/
def execLdF (x : Reg) (s : State) : Result := .next (s.setI (BitVec.ofNat 16 (5 * (s.reg x).toNat))).finish

/-- FX33, LD B, VX (R143). -/
def execLdB (x : Reg) (s : State) : Result :=
  match s.badWrite 3 with
  | some a => .next (s.raise (.addressFault a))
  | none => .next (s.storeAtI (decimalDigits (s.reg x))).finish

/-- FX55, LD [I], VX (R144). -/
def execStoreRegs (x : Reg) (s : State) : Result :=
  match s.badWrite (x.val + 1) with
  | some a => .next (s.raise (.addressFault a))
  | none => .next (s.storeAtI (s.regsThrough x)).finish

/-- FX65, LD VX, [I] (R145). -/
def execLoadRegs (x : Reg) (s : State) : Result :=
  match s.badRead (x.val + 1) with
  | some a => .next (s.raise (.addressFault a))
  | none => .next (s.loadThrough x).finish

end Sys2Proof.Machine
end

