-- ==== Sys2Proof/Machine/Screen.lean ====
section
/-! DEFINITION. Display instructions (43_display.md R150 to R153). -/

namespace Sys2Proof.Machine

/-- 00E0, CLS: displayDirty even when already clear (R150, D16). -/
def execCls (s : State) : Result := .next (s.setDisplay Display.clear).finishDrawn

/-- DXYN, DRW VX, VY, N: range check first, coordinates read before VF is written, VF written last (R152). -/
def execDrw (x y : Reg) (n : BitVec 4) (s : State) : Result :=
  match s.badRead n.toNat with
  | some a => .next (s.raise (.addressFault a))
  | none =>
    let d := Draw.sprite ((s.reg x).toNat % 64) ((s.reg y).toNat % 32) n.toNat s.element s.display
    .next ((s.setDisplay d.display).setReg flagReg (flagByte d.hit)).finishDrawn

end Sys2Proof.Machine
end

