-- ==== Sys2Proof/Machine/TimerKey.lean ====
section
/-! DEFINITION. Timer and keypad instructions (44_timer_key.md R160 to R165). -/

namespace Sys2Proof.Machine

/-- The shared shape of EX9E and EXA1: KeyIndexFault when V[X] is no key index, else skip when the latched key state is
the one asked for (R160, R161). -/
def skipOnKey (x : Reg) (wanted : Bool) (s : State) : Result :=
  if 15 < (s.reg x).toNat then .next (s.raise (.keyIndexFault (s.reg x)))
  else .next (s.skipIf (s.keyDown (s.reg x).toNat == wanted)).finish

/-- EX9E, SKP VX (R160). -/
def execSkp (x : Reg) (s : State) : Result := skipOnKey x true s

/-- EXA1, SKNP VX (R161). -/
def execSknp (x : Reg) (s : State) : Result := skipOnKey x false s

/-- FX07, LD VX, DT (R162). -/
def execLdVxDt (x : Reg) (s : State) : Result := .next (s.setReg x s.dt).finish

/-- FX0A, LD VX, K: the least pressed key, or pc back to this instruction with keyWait (R163, D7, D8). -/
def execLdVxK (x : Reg) (s : State) : Result :=
  match s.lowestKey with
  | some k => .next (s.setReg x (BitVec.ofNat 8 k)).finish
  | none => .next (s.setPc s.fetchedAt).finishWaiting

/-- FX15, LD DT, VX (R164). -/
def execLdDtVx (x : Reg) (s : State) : Result := .next (s.setDt (s.reg x)).finish

/-- FX18, LD ST, VX: playAudio untouched (R165, C5). -/
def execLdStVx (x : Reg) (s : State) : Result := .next (s.setSt (s.reg x)).finish

end Sys2Proof.Machine
end

