-- ==== Sys2Proof/Machine/Events.lean ====
section
/-! DEFINITION. The events that are not a Step (10_state.md R40): Tick (60_exceptions.md R182), SetKeys, AckAudio,
ReadDisplay (R43 to R45), Reset (70_reset_and_hazards.md R200) and Load (R202). -/

namespace Sys2Proof.Machine

/-! ## Between Steps -/

/-- Tick (R182): each nonzero timer counts down by one; playAudio is raised when ST was nonzero. -/
def State.tick (s : State) : State :=
  { s with
    dt := if s.dt.toNat = 0 then s.dt else BitVec.ofNat 8 (s.dt.toNat - 1)
    st := if s.st.toNat = 0 then s.st else BitVec.ofNat 8 (s.st.toNat - 1)
    playAudio := if s.st.toNat = 0 then s.playAudio else true }

/-- SetKeys(k) (R43). -/
def State.setKeys (s : State) (k : BitVec 16) : State := { s with keypad := k }

/-- AckAudio (R44). -/
def State.ackAudio (s : State) : State := { s with playAudio := false }

/-- ReadDisplay returns the cells; the state does not change (R45). -/
def State.readDisplay (s : State) : Display := s.display

/-- The state after an event between Steps (R40). -/
def State.input (s : State) : InputEvent → State
  | .setKeys k => s.setKeys k
  | .ackAudio => s.ackAudio
  | .readDisplay => s
  | .tick => s.tick

/-- The events that come before the next Step take effect, in order, and are used up (R40, R63). -/
def State.takeInputs (s : State) : State :=
  match s.inputs with
  | [] => s
  | events :: rest => events.foldl State.input { s with inputs := rest }

/-! ## The beginning of a run -/

/-- Memory after Reset with the given FONT (R200). -/
def fontMemory (font : Vector Byte 80) : Memory := Memory.writeBlock [] 0 font.toList

/-- Right after Reset of a machine with the given parameters (R34, R200). -/
def State.resetWith (c : Config) : State := { State.reset with config := c, memory := fontMemory c.font }

/-- The Reset event (R200): all the spec's state to its reset value. The parameters stay (R32); of the model's own
fields the free value's counter and the coming inputs stay, and the record of statuses begins anew (log entry 10). -/
def State.resetEvent (s : State) : State :=
  { State.resetWith s.config with draws := s.draws, inputs := s.inputs }

/-- The result of a Load (R176, R202). -/
inductive LoadResult where
  | ok (s : State)
  | romTooLarge
  deriving DecidableEq, Repr

/-- Load(bytes) (R202): the bytes at 0x200 on, or RomTooLarge with nothing written. -/
def State.load (s : State) (bytes : List Byte) : LoadResult :=
  if programFits bytes then .ok (s.setMemory (s.memory.writeBlock 0x200 bytes)) else .romTooLarge

end Sys2Proof.Machine
end

