-- ==== Sys2Proof/Machine/Step.lean ====
section
/-! DEFINITION. The Step event (30_encoding.md R70), the model's one step, and where a test places an instruction. -/

namespace Sys2Proof.Machine

/-- Step(rnd) (R70): fetch, advance, decode, execute. A non-Ok status is a next state (R170). -/
def stepWith (rnd : Byte) (s : State) : Host.Outcome State Fault Refusal :=
  let s := { s with rnd := rnd }
  match s.fetch with
  | .halted => .next s.finishHalted
  | .beyond addr => .next (s.raise (.addressFault addr))
  | .bytes hi lo =>
    match decode [hi, lo] with
    | .ok (i, _) => exec i s.advance
    | .error _ => .next (s.advance.raise (.unknownOpcode (wordOf hi lo) s.pc))

/-- Take the free value's next draw number (R41). -/
def State.draw (s : State) : State := { s with draws := s.draws + 1 }

/-- One step of the model: the events that come before this Step, then Step(rnd) with a free input byte (R40, R41, R70). -/
def step (s : State) : Host.Outcome State Fault Refusal :=
  let s := s.takeInputs
  stepWith (Config.rnd s.draws) s.draw

/-- `s` with the table word stored at pc, as memory holds it (R56), so that the next step fetches and runs it. Where pc
is at no fetchable address (R72, R73), pc goes to the entry point 0x200 first (R34). -/
def State.withFetchWord (s : State) (nbits w : Nat) : State :=
  let s := if s.pc.toNat < 4095 then s else s.setPc 0x200
  s.setMemory (s.memory.writeBlock s.pc.toNat [highByte (tableWord nbits w), lowByte (tableWord nbits w)])

end Sys2Proof.Machine
end

