-- ==== Sys2Proof/Machine/Session.lean ====
section
/-! DEFINITION. The whole interface: every event of 10_state.md R40 as a move on the machine, in the order the host must
keep (70_reset_and_hazards.md R203). A move the spec gives no meaning to does not exist (D24). -/

namespace Sys2Proof.Machine

/-- The events of R40. -/
inductive Event where
  | reset
  | load (bytes : List Byte)
  | input (e : InputEvent)
  | step (rnd : Byte)
  deriving DecidableEq, Repr

/-- Where the host is in the boot order (R203): before the first Reset or after a RomTooLarge; after a Reset; after a
Load that returned Ok. -/
inductive Phase where
  | off
  | fresh
  | running
  deriving DecidableEq, Repr

/-- The machine and the host's place in the boot order. -/
structure Session where
  phase : Phase
  state : State
  deriving DecidableEq, Repr

/-- A machine with the given parameters before its first Reset. What it holds then is of no account: only a Reset can
follow (R203). -/
def Session.powerOn (c : Config) : Session := { phase := .off, state := State.resetWith c }

/-- One event, or none where the host has no such move (R203, D24). -/
def Session.apply (p : Session) : Event → Option Session
  | .reset => some { phase := .fresh, state := p.state.resetEvent }
  | .load bytes =>
    match p.phase with
    | .fresh =>
      match p.state.load bytes with
      | .ok t => some { phase := .running, state := t }
      | .romTooLarge => some { p with phase := .off }
    | .off => none
    | .running => none
  | .input e =>
    match p.phase with
    | .running => some { p with state := p.state.input e }
    | .off => none
    | .fresh => none
  | .step rnd =>
    match p.phase with
    | .running =>
      match stepWith rnd p.state with
      | .next t => some { p with state := t }
      | .fault _ => none
      | .refused _ => none
    | .off => none
    | .fresh => none

/-- A sequence of events, in order (R40, R63). -/
def Session.applyAll (p : Session) : List Event → Option Session
  | [] => some p
  | e :: es =>
    match p.apply e with
    | some q => Session.applyAll q es
    | none => none

end Sys2Proof.Machine
end

