-- ==== Sys2Proof/Safety.lean ====
section
/-! DEFINITION. The terms claims use: what a step leaves unchanged, how it ends, the machine's invariant, a clean run
(60_exceptions.md R188), halted and parked (70_reset_and_hazards.md R204), the program obligations (R206), the footprint
of a sprite (43_display.md R151). -/

namespace Sys2Proof.Machine

/-! ## Frames -/

/-- The parts of State beside the general registers and the outputs of the step. -/
inductive Part where
  | pc | i | stack | sp | dt | st | playAudio | keypad | display | memory | config | rnd | draws | inputs
  deriving DecidableEq, Repr

/-- Both states agree on the part; memory is compared through the read of every address. -/
def Part.same : Part → State → State → Prop
  | .pc, s, t => t.pc = s.pc
  | .i, s, t => t.i = s.i
  | .stack, s, t => t.stack = s.stack
  | .sp, s, t => t.sp = s.sp
  | .dt, s, t => t.dt = s.dt
  | .st, s, t => t.st = s.st
  | .playAudio, s, t => t.playAudio = s.playAudio
  | .keypad, s, t => t.keypad = s.keypad
  | .display, s, t => t.display = s.display
  | .memory, s, t => ∀ a, t.memory.read a = s.memory.read a
  | .config, s, t => t.config = s.config
  | .rnd, s, t => t.rnd = s.rnd
  | .draws, s, t => t.draws = s.draws
  | .inputs, s, t => t.inputs = s.inputs

/-- From `s` to `t` everything is unchanged but the registers and the parts listed. -/
def Unchanged (regs : List Reg) (parts : List Part) (s t : State) : Prop :=
  (∀ r, r ∉ regs → t.reg r = s.reg r) ∧ ∀ p, p ∉ parts → p.same s t

/-- The step from `s` to `t` put out `o`, and the record of the first non-Ok status follows (R42, R188). -/
def Ends (o : StepOut) (s t : State) : Prop := t.out = o ∧ t.firstNonOk = s.firstNonOk.or o.status.nonOk

/-- Status Ok and no signal. -/
abbrev EndsOk (s t : State) : Prop := Ends (StepOut.quiet .ok) s t

/-- What the host's events between Steps can change, with the bookkeeping of the model's inputs (R43, R44, R182). -/
abbrev hostParts : List Part := [.dt, .st, .playAudio, .keypad, .rnd, .draws, .inputs]

/-- `t` has the timers, the audio latch and the keypad that the events before the first `n` coming Steps of `s` leave, and
those events are used up (R40). -/
def HostActed (n : Nat) (s t : State) : Prop :=
  let u := (s.inputs.take n).flatten.foldl State.input s
  t.dt = u.dt ∧ t.st = u.st ∧ t.playAudio = u.playAudio ∧ t.keypad = u.keypad ∧ t.inputs = s.inputs.drop n

/-! ## Words and addresses -/

/-- The word `w` is the instruction `i` (R78). -/
abbrev IsWordOf (w : Nat) (i : Instr) : Prop := decodeWord (BitVec.ofNat 16 w) = .ok i

/-- The word at pc, big-endian (R56). -/
def State.wordAtPc (s : State) : Word := wordOf (s.memory.read s.pc.toNat) (s.memory.read (s.pc.toNat + 1))

/-- `a` is the lowest of the `n` addresses from I that fails the check (R146). -/
def FirstFailing (check : Nat → Prop) (s : State) (n a : Nat) : Prop :=
  ∃ k, k < n ∧ a = s.effective k ∧ ¬ check a ∧ ∀ j, j < k → check (s.effective j)

/-- The condition of R57 on a read address. -/
def ReadOk (a : Nat) : Prop := a < 4096

/-- The condition of R58 on a write address. -/
def WriteOk (a : Nat) : Prop := 0x050 ≤ a ∧ a < 4096

/-! ## The invariant -/

/-- What every run keeps: memory in its canonical form; the font immutable (R51, C4); pc never past 0x10FE, so it never
wraps (R22); a return address never past 0x1000 (R102); a non-Ok status recorded (R188). -/
structure State.Inv (s : State) : Prop where
  memoryCanonical : s.memory.wf
  fontIntact : ∀ a : Fin 80, s.memory.read a.val = s.config.font[a.val]
  pcBound : s.pc.toNat ≤ 0x10FE
  returnBound : ∀ k : Fin 16, (s.stack[k.val]).toNat ≤ 0x1000
  statusRecorded : s.out.status ≠ .ok → s.firstNonOk ≠ none

/-! ## Runs -/

/-- No step since Reset ended with a non-Ok status: the premise R188 advises for claims about programs. -/
def State.clean (s : State) : Prop := s.firstNonOk = none

/-- The core is halted (R72). -/
def State.halted (s : State) : Prop := 4096 ≤ s.pc.toNat

/-- The core is parked: the instruction at pc is the jump to itself (R204 b). -/
def State.parked (s : State) : Prop :=
  s.pc.toNat < 4095 ∧ ∃ nnn, decodeWord s.wordAtPc = .ok (.jp nnn) ∧ nnn.toNat = s.pc.toNat

/-- The obligations on pc that the core does not check (R206): even, in the program area, not past memory. -/
def State.pcRegular (s : State) : Prop := s.pc.toNat % 2 = 0 ∧ 0x200 ≤ s.pc.toNat ∧ s.pc.toNat < 4096

/-! ## Sprites -/

/-- The cell (px, py) lies under a 1 bit of the sprite DXYN draws (R151). -/
def State.inFootprint (s : State) (x y : Reg) (n : BitVec 4) (px : Fin 64) (py : Fin 32) : Prop :=
  ∃ r c, r < n.toNat ∧ c < 8 ∧ (s.element r).getLsbD (7 - c) = true ∧
    px.val = ((s.reg x).toNat % 64 + c) % 64 ∧ py.val = ((s.reg y).toNat % 32 + r) % 32

end Sys2Proof.Machine
end

