-- ==== Sys2Proof/Certificates/Slice0/Obligations.lean ====
section
/-! DEFINITION. The statements for the provers, from the numbered rules of the spec. `exec i s` starts from the state
after the fetch, whose pc is already the address of the next instruction (R71), so "pc unchanged" is pc = a + 2. -/

open Sys2Proof Sys2Proof.Machine

/-! ## The Step event -/

/-- R70, one Step(rnd) event: it always answers a next state; halted at pc >= 4096; AddressFault(4096) at 0xFFF; else the
big-endian word at pc is fetched, pc advances by 2, and the word's instruction is executed, or UnknownOpcode reported. -/
def Obligations.StepEventFollowsTheCycle : Prop :=
  ∀ (rnd : Byte) (s : State),
    (∃ t, stepWith rnd s = .next t) ∧
    (4096 ≤ s.pc.toNat → ∃ t, stepWith rnd s = .next t ∧ Unchanged [] [.rnd] s t ∧
      Ends { status := .ok, halted := true, displayDirty := false, keyWait := false } s t) ∧
    (s.pc.toNat = 4095 → ∃ t, stepWith rnd s = .next t ∧ Unchanged [] [.rnd] s t ∧
      Ends (StepOut.quiet (.addressFault 4096)) s t) ∧
    (s.pc.toNat < 4095 → ∀ i, decodeWord s.wordAtPc = .ok i →
      stepWith rnd s = exec i { s with rnd := rnd, pc := s.pc + 2 }) ∧
    (s.pc.toNat < 4095 → ∀ e, decodeWord s.wordAtPc = .error e →
      ∃ t, stepWith rnd s = .next t ∧ t.pc = s.pc + 2 ∧ Unchanged [] [.pc, .rnd] s t ∧
        Ends (StepOut.quiet (.unknownOpcode s.wordAtPc s.pc)) s t)

/-- The model's step on a decoded instruction: the events listed before this Step take effect in order and are used up,
the free input byte is drawn, pc advances, and the instruction is executed. `inputs` and `draws` are the model's own
fields (log entries 4 and 5). -/
def Obligations.StepRunsTheDecodedInstruction : Prop :=
  ∀ (s u : State) (i : Instr), s.takeInputs = u → u.pc.toNat < 4095 → decodeWord u.wordAtPc = .ok i →
    step s = exec i { u with draws := u.draws + 1, rnd := Config.rnd u.draws, pc := u.pc + 2 } ∧
    (s.inputs = [] → u = s) ∧
    (∀ events rest, s.inputs = events :: rest → u = events.foldl State.input { s with inputs := rest })

/-! ## Encoding -/

/-- Words written out from R78's patterns decode to the instructions they stand for. -/
def Obligations.SampleWordsDecode : Prop :=
  IsWordOf 0x00E0 .cls ∧ IsWordOf 0x00EE .ret ∧ IsWordOf 0x1ABC (.jp 0xABC) ∧ IsWordOf 0x2210 (.call 0x210) ∧
  IsWordOf 0x5120 (.seReg 1 2) ∧ IsWordOf 0x609C (.ldImm 0 0x9C) ∧ IsWordOf 0x8124 (.addReg 1 2) ∧
  IsWordOf 0x812E (.shlReg 1 2) ∧ IsWordOf 0xBFFF (.jpV0 0xFFF) ∧ IsWordOf 0xC30F (.rnd 3 0x0F) ∧
  IsWordOf 0xD015 (.drw 0 1 5) ∧ IsWordOf 0xE29E (.skp 2) ∧ IsWordOf 0xF20A (.ldVxK 2) ∧
  IsWordOf 0xF033 (.ldB 0) ∧ IsWordOf 0xFF65 (.loadRegs 15)

/-- Decode inverts encode: the bytes of any well-formed instruction decode to it, whatever bytes follow. -/
def Obligations.DecodeInvertsEncode : Prop :=
  ∀ (i : Instr) (rest : List Byte), i.wf = true → decode (encodeBytes i ++ rest) = .ok (i, rest)

/-- Encode inverts decode: each recognised word is the encoding of the instruction it decodes to. -/
def Obligations.EncodeInvertsDecode : Prop :=
  ∀ (op : Word) (i : Instr), decodeWord op = .ok i → encodeWord i = op

/-- R78, the opcode map: the word selects row k, `(op and mask) = match`, exactly when it decodes to an instruction of
row k. So no word selects two rows, and an unrecognised word selects none. -/
def Obligations.DecodeFollowsTheOpcodeMap : Prop :=
  ∀ (op : Word) (k : Nat) (row : Word × Word), opcodeMap[k]? = some row →
    (rowMatches op row = true ↔ ∃ i, decodeWord op = .ok i ∧ i.row = k)

/-- R79's table: a word is no instruction exactly when it is one of the unrecognised words, and it is refused by its
family. -/
def Obligations.UnrecognisedWordsAreTheTablesOnes : Prop :=
  ∀ op : Word,
    (recognisedWord op = true ↔ ∃ i, decodeWord op = .ok i) ∧
    (recognisedWord op = false →
      decodeWord op = .error .family0 ∧ op.toNat / 4096 = 0x0 ∨
      decodeWord op = .error .family5 ∧ op.toNat / 4096 = 0x5 ∨
      decodeWord op = .error .family8 ∧ op.toNat / 4096 = 0x8 ∨
      decodeWord op = .error .family9 ∧ op.toNat / 4096 = 0x9 ∨
      decodeWord op = .error .familyE ∧ op.toNat / 4096 = 0xE ∨
      decodeWord op = .error .familyF ∧ op.toNat / 4096 = 0xF)

/-! ## Control transfer -/

/-- R100, 00EE: with k + 1 entries in use, decrement then load; with none, StackUnderflow (what the state is then, the
spec decides by D9). The entries themselves do not change. -/
def Obligations.ReturnPopsTheStack : Prop :=
  ∀ s : State, IsWordOf 0x00EE .ret ∧
    (∀ k : Fin 16, s.sp.val = k.val + 1 → ∃ t, exec .ret s = .next t ∧
      t.sp.val = k.val ∧ t.pc = s.stack[k.val] ∧ Unchanged [] [.pc, .sp] s t ∧ EndsOk s t) ∧
    (s.sp.val = 0 → ∃ t, exec .ret s = .next t ∧ Unchanged [] [] s t ∧
      Ends (StepOut.quiet (.stackUnderflow (s.pc - 2))) s t)

/-- R101, 1NNN: pc is NNN, and nothing else changes. -/
def Obligations.JumpGoesToNNN : Prop :=
  ∀ (s : State) (nnn : BitVec 12), IsWordOf (0x1000 + nnn.toNat) (.jp nnn) ∧
    ∃ t, exec (.jp nnn) s = .next t ∧ t.pc.toNat = nnn.toNat ∧ Unchanged [] [.pc] s t ∧ EndsOk s t

/-- R102, 2NNN: with k < 16 entries in use, store the advanced pc then increment, and jump; with 16, StackOverflow (what
the state is then, the spec decides by D9). -/
def Obligations.CallPushesTheReturnAddress : Prop :=
  ∀ (s : State) (nnn : BitVec 12), IsWordOf (0x2000 + nnn.toNat) (.call nnn) ∧
    (∀ k : Fin 16, s.sp.val = k.val → ∃ t, exec (.call nnn) s = .next t ∧
      t.stack[k.val] = s.pc ∧ (∀ j : Fin 16, j ≠ k → t.stack[j.val] = s.stack[j.val]) ∧
      t.sp.val = k.val + 1 ∧ t.pc.toNat = nnn.toNat ∧ Unchanged [] [.pc, .sp, .stack] s t ∧ EndsOk s t) ∧
    (s.sp.val = 16 → ∃ t, exec (.call nnn) s = .next t ∧ Unchanged [] [] s t ∧
      Ends (StepOut.quiet (.stackOverflow (s.pc - 2))) s t)

/-- R103, BNNN: pc is NNN plus V0, not masked (D21). -/
def Obligations.JumpPlusV0IsNotMasked : Prop :=
  ∀ (s : State) (nnn : BitVec 12), IsWordOf (0xB000 + nnn.toNat) (.jpV0 nnn) ∧
    ∃ t, exec (.jpV0 nnn) s = .next t ∧ t.pc.toNat = nnn.toNat + (s.reg 0).toNat ∧
      Unchanged [] [.pc] s t ∧ EndsOk s t

/-- R104, R105, 3XNN and 4XNN: pc moves 2 further exactly when VX equals NN, or exactly when it does not. -/
def Obligations.SkipsComparingWithNN : Prop :=
  ∀ (s : State) (x : Reg) (nn : Byte),
    IsWordOf (0x3000 + x.val * 256 + nn.toNat) (.seImm x nn) ∧
    IsWordOf (0x4000 + x.val * 256 + nn.toNat) (.sneImm x nn) ∧
    (∃ t, exec (.seImm x nn) s = .next t ∧ t.pc = (if s.reg x = nn then s.pc + 2 else s.pc) ∧
      Unchanged [] [.pc] s t ∧ EndsOk s t) ∧
    (∃ t, exec (.sneImm x nn) s = .next t ∧ t.pc = (if s.reg x = nn then s.pc else s.pc + 2) ∧
      Unchanged [] [.pc] s t ∧ EndsOk s t)

/-- R106, R107, 5XY0 and 9XY0: pc moves 2 further exactly when VX equals VY, or exactly when it does not; 5XYn and 9XYn
with n not 0 are no instruction, which is strict matching, the spec's own decision (R80, D10, log entry 9). -/
def Obligations.SkipsComparingRegisters : Prop :=
  ∀ (s : State) (x y : Reg),
    IsWordOf (0x5000 + x.val * 256 + y.val * 16) (.seReg x y) ∧
    IsWordOf (0x9000 + x.val * 256 + y.val * 16) (.sneReg x y) ∧
    (∀ n : Fin 16, n ≠ 0 → ∃ e f,
      decodeWord (BitVec.ofNat 16 (0x5000 + x.val * 256 + y.val * 16 + n.val)) = .error e ∧
      decodeWord (BitVec.ofNat 16 (0x9000 + x.val * 256 + y.val * 16 + n.val)) = .error f) ∧
    (∃ t, exec (.seReg x y) s = .next t ∧ t.pc = (if s.reg x = s.reg y then s.pc + 2 else s.pc) ∧
      Unchanged [] [.pc] s t ∧ EndsOk s t) ∧
    (∃ t, exec (.sneReg x y) s = .next t ∧ t.pc = (if s.reg x = s.reg y then s.pc else s.pc + 2) ∧
      Unchanged [] [.pc] s t ∧ EndsOk s t)

/-! ## Register and ALU instructions -/

/-- R120, 6XNN: VX is NN; VF is written only when it is VX. -/
def Obligations.LoadImmediateWritesVX : Prop :=
  ∀ (s : State) (x : Reg) (nn : Byte), IsWordOf (0x6000 + x.val * 256 + nn.toNat) (.ldImm x nn) ∧
    ∃ t, exec (.ldImm x nn) s = .next t ∧ t.reg x = nn ∧ Unchanged [x] [] s t ∧ EndsOk s t

/-- R121, 7XNN: VX is the sum modulo 256; VF is written only when it is VX. -/
def Obligations.AddImmediateWraps : Prop :=
  ∀ (s : State) (x : Reg) (nn : Byte), IsWordOf (0x7000 + x.val * 256 + nn.toNat) (.addImm x nn) ∧
    ∃ t, exec (.addImm x nn) s = .next t ∧ (t.reg x).toNat = ((s.reg x).toNat + nn.toNat) % 256 ∧
      Unchanged [x] [] s t ∧ EndsOk s t

/-- R122 to R125, 8XY0 to 8XY3: copy, or, and, xor, bit by bit; VF is written only when it is VX (C2, D11). -/
def Obligations.CopyAndLogicLeaveTheFlag : Prop :=
  ∀ (s : State) (x y : Reg),
    IsWordOf (0x8000 + x.val * 256 + y.val * 16) (.ldReg x y) ∧
    IsWordOf (0x8001 + x.val * 256 + y.val * 16) (.orReg x y) ∧
    IsWordOf (0x8002 + x.val * 256 + y.val * 16) (.andReg x y) ∧
    IsWordOf (0x8003 + x.val * 256 + y.val * 16) (.xorReg x y) ∧
    (∃ t, exec (.ldReg x y) s = .next t ∧ t.reg x = s.reg y ∧ Unchanged [x] [] s t ∧ EndsOk s t) ∧
    (∃ t, exec (.orReg x y) s = .next t ∧
      (∀ k, k < 8 → (t.reg x).getLsbD k = ((s.reg x).getLsbD k || (s.reg y).getLsbD k)) ∧
      Unchanged [x] [] s t ∧ EndsOk s t) ∧
    (∃ t, exec (.andReg x y) s = .next t ∧
      (∀ k, k < 8 → (t.reg x).getLsbD k = ((s.reg x).getLsbD k && (s.reg y).getLsbD k)) ∧
      Unchanged [x] [] s t ∧ EndsOk s t) ∧
    (∃ t, exec (.xorReg x y) s = .next t ∧
      (∀ k, k < 8 → (t.reg x).getLsbD k = ((s.reg x).getLsbD k ^^ (s.reg y).getLsbD k)) ∧
      Unchanged [x] [] s t ∧ EndsOk s t)

/-- R126, 8XY4: VX is the sum modulo 256 unless it is VF; VF is 1 when the sum passes 255, else 0, written last. -/
def Obligations.AddSetsTheCarry : Prop :=
  ∀ (s : State) (x y : Reg), IsWordOf (0x8004 + x.val * 256 + y.val * 16) (.addReg x y) ∧
    ∃ t, exec (.addReg x y) s = .next t ∧
      (x ≠ flagReg → (t.reg x).toNat = ((s.reg x).toNat + (s.reg y).toNat) % 256) ∧
      (t.reg flagReg).toNat = (if 255 < (s.reg x).toNat + (s.reg y).toNat then 1 else 0) ∧
      Unchanged [x, flagReg] [] s t ∧ EndsOk s t

/-- R127, R129, 8XY5 and 8XY7: VX is the difference modulo 256 unless it is VF; VF is 1 when no borrow occurred, equal
operands included (D23), else 0, written last. -/
def Obligations.SubtractSetsNoBorrow : Prop :=
  ∀ (s : State) (x y : Reg),
    IsWordOf (0x8005 + x.val * 256 + y.val * 16) (.subReg x y) ∧
    IsWordOf (0x8007 + x.val * 256 + y.val * 16) (.subnReg x y) ∧
    (∃ t, exec (.subReg x y) s = .next t ∧
      (x ≠ flagReg → ((t.reg x).toNat : Int) = ((s.reg x).toNat - (s.reg y).toNat : Int) % 256) ∧
      (t.reg flagReg).toNat = (if (s.reg y).toNat ≤ (s.reg x).toNat then 1 else 0) ∧
      Unchanged [x, flagReg] [] s t ∧ EndsOk s t) ∧
    (∃ t, exec (.subnReg x y) s = .next t ∧
      (x ≠ flagReg → ((t.reg x).toNat : Int) = ((s.reg y).toNat - (s.reg x).toNat : Int) % 256) ∧
      (t.reg flagReg).toNat = (if (s.reg x).toNat ≤ (s.reg y).toNat then 1 else 0) ∧
      Unchanged [x, flagReg] [] s t ∧ EndsOk s t)

/-- R128, R130, 8XY6 and 8XYE, for both settings of SHIFT_SRC_VY: the source (VY or VX) shifted by one to VX unless it is
VF; VF is the dropped bit, written last. -/
def Obligations.ShiftsKeepTheDroppedBit : Prop :=
  ∀ (s : State) (x y : Reg) (b : Byte), b = (if s.config.shiftSrcVY = true then s.reg y else s.reg x) →
    IsWordOf (0x8006 + x.val * 256 + y.val * 16) (.shrReg x y) ∧
    IsWordOf (0x800E + x.val * 256 + y.val * 16) (.shlReg x y) ∧
    (∃ t, exec (.shrReg x y) s = .next t ∧
      (x ≠ flagReg → (t.reg x).toNat = b.toNat / 2) ∧ (t.reg flagReg).toNat = b.toNat % 2 ∧
      Unchanged [x, flagReg] [] s t ∧ EndsOk s t) ∧
    (∃ t, exec (.shlReg x y) s = .next t ∧
      (x ≠ flagReg → (t.reg x).toNat = b.toNat * 2 % 256) ∧ (t.reg flagReg).toNat = b.toNat / 128 ∧
      Unchanged [x, flagReg] [] s t ∧ EndsOk s t)

/-- R131, CXNN: whatever the input byte of the Step, VX is that byte masked by NN, bit by bit. -/
def Obligations.RandomIsTheInputByteMasked : Prop :=
  ∀ (s : State) (x : Reg) (nn rnd : Byte), IsWordOf (0xC000 + x.val * 256 + nn.toNat) (.rnd x nn) ∧
    ∃ t, exec (.rnd x nn) { s with rnd := rnd } = .next t ∧
      (∀ k, k < 8 → (t.reg x).getLsbD k = (rnd.getLsbD k && nn.getLsbD k)) ∧
      Unchanged [x] [.rnd] s t ∧ t.rnd = rnd ∧ EndsOk s t

/-! ## Index register and memory -/

/-- R140, ANNN: I is NNN. -/
def Obligations.LoadIndexIsNNN : Prop :=
  ∀ (s : State) (nnn : BitVec 12), IsWordOf (0xA000 + nnn.toNat) (.ldI nnn) ∧
    ∃ t, exec (.ldI nnn) s = .next t ∧ t.i.toNat = nnn.toNat ∧ Unchanged [] [.i] s t ∧ EndsOk s t

/-- R141, R142, FX1E and FX29: I is the sum modulo 65536 with no flag (D21), or five times the whole byte (D20). -/
def Obligations.IndexArithmetic : Prop :=
  ∀ (s : State) (x : Reg),
    IsWordOf (0xF01E + x.val * 256) (.addI x) ∧ IsWordOf (0xF029 + x.val * 256) (.ldF x) ∧
    (∃ t, exec (.addI x) s = .next t ∧ t.i.toNat = (s.i.toNat + (s.reg x).toNat) % 65536 ∧
      Unchanged [] [.i] s t ∧ EndsOk s t) ∧
    (∃ t, exec (.ldF x) s = .next t ∧ t.i.toNat = 5 * (s.reg x).toNat ∧ Unchanged [] [.i] s t ∧ EndsOk s t)

/-- R143, FX33: hundreds, tens and ones at I, I + 1, I + 2 when all three addresses are writable, no other byte changed;
else AddressFault of the first bad address with nothing written (D4, D5). -/
def Obligations.StoreDecimalDigits : Prop :=
  ∀ (s : State) (x : Reg), IsWordOf (0xF033 + x.val * 256) (.ldB x) ∧
    ((∀ k, k < 3 → WriteOk (s.effective k)) → ∃ t, exec (.ldB x) s = .next t ∧
      (t.memory.read (s.effective 0)).toNat = (s.reg x).toNat / 100 ∧
      (t.memory.read (s.effective 1)).toNat = (s.reg x).toNat / 10 % 10 ∧
      (t.memory.read (s.effective 2)).toNat = (s.reg x).toNat % 10 ∧
      (∀ a, (∀ k, k < 3 → a ≠ s.effective k) → t.memory.read a = s.memory.read a) ∧
      Unchanged [] [.memory] s t ∧ EndsOk s t) ∧
    (∀ a, FirstFailing WriteOk s 3 a → ∃ t, exec (.ldB x) s = .next t ∧ Unchanged [] [] s t ∧
      Ends (StepOut.quiet (.addressFault a)) s t)

/-- R144, FX55: V0 to VX at I on when all X + 1 addresses are writable, no other byte changed; else AddressFault of the
first bad address with nothing written (D4, D5). I does not change (D14). -/
def Obligations.StoreRegisterBlock : Prop :=
  ∀ (s : State) (x : Reg), IsWordOf (0xF055 + x.val * 256) (.storeRegs x) ∧
    ((∀ k, k < x.val + 1 → WriteOk (s.effective k)) → ∃ t, exec (.storeRegs x) s = .next t ∧
      (∀ r : Reg, r.val ≤ x.val → t.memory.read (s.effective r.val) = s.reg r) ∧
      (∀ a, (∀ k, k < x.val + 1 → a ≠ s.effective k) → t.memory.read a = s.memory.read a) ∧
      Unchanged [] [.memory] s t ∧ EndsOk s t) ∧
    (∀ a, FirstFailing WriteOk s (x.val + 1) a → ∃ t, exec (.storeRegs x) s = .next t ∧ Unchanged [] [] s t ∧
      Ends (StepOut.quiet (.addressFault a)) s t)

/-- R145, FX65: V0 to VX from memory at I on when all X + 1 addresses are readable, no other register changed; else
AddressFault of the first bad address with nothing loaded (D4). I does not change (D14). -/
def Obligations.LoadRegisterBlock : Prop :=
  ∀ (s : State) (x : Reg), IsWordOf (0xF065 + x.val * 256) (.loadRegs x) ∧
    ((∀ k, k < x.val + 1 → ReadOk (s.effective k)) → ∃ t, exec (.loadRegs x) s = .next t ∧
      (∀ r : Reg, r.val ≤ x.val → t.reg r = s.memory.read (s.effective r.val)) ∧
      (∀ r : Reg, x.val < r.val → t.reg r = s.reg r) ∧
      (∀ p : Part, p.same s t) ∧ EndsOk s t) ∧
    (∀ a, FirstFailing ReadOk s (x.val + 1) a → ∃ t, exec (.loadRegs x) s = .next t ∧ Unchanged [] [] s t ∧
      Ends (StepOut.quiet (.addressFault a)) s t)

/-! ## Display -/

/-- R150, 00E0: every cell is off, VF and all else unchanged, displayDirty raised (D16). -/
def Obligations.ClearTurnsEveryCellOff : Prop :=
  ∀ s : State, IsWordOf 0x00E0 .cls ∧
    ∃ t, exec .cls s = .next t ∧ (∀ px py, t.display.pixel px py = false) ∧ Unchanged [] [.display] s t ∧
      Ends { status := .ok, halted := false, displayDirty := true, keyWait := false } s t

/-- R152, R153 a and c, DXYN on readable rows (N = 0 among them): each cell of the footprint flips and no other, VF is 1
exactly when a cell of the footprint was on, else 0, displayDirty raised (D16). The footprint is R151's, with bit 7
leftmost, which the spec takes from general knowledge (D18, log entry 8). -/
def Obligations.DrawFlipsTheFootprint : Prop :=
  ∀ (s : State) (x y : Reg) (n : BitVec 4),
    IsWordOf (0xD000 + x.val * 256 + y.val * 16 + n.toNat) (.drw x y n) ∧
    ((∀ k, k < n.toNat → ReadOk (s.effective k)) → ∃ t, exec (.drw x y n) s = .next t ∧
      (∀ px py, s.inFootprint x y n px py → t.display.pixel px py = !s.display.pixel px py) ∧
      (∀ px py, ¬ s.inFootprint x y n px py → t.display.pixel px py = s.display.pixel px py) ∧
      ((∃ px py, s.inFootprint x y n px py ∧ s.display.pixel px py = true) → (t.reg flagReg).toNat = 1) ∧
      ((¬ ∃ px py, s.inFootprint x y n px py ∧ s.display.pixel px py = true) → (t.reg flagReg).toNat = 0) ∧
      Unchanged [flagReg] [.display] s t ∧
      Ends { status := .ok, halted := false, displayDirty := true, keyWait := false } s t)

/-- R152's fault, DXYN with a row at or above 4096: AddressFault of the first, no cell and no register changed,
displayDirty not raised (D4). -/
def Obligations.DrawBeyondMemoryChangesNothing : Prop :=
  ∀ (s : State) (x y : Reg) (n : BitVec 4) (a : Nat), FirstFailing ReadOk s n.toNat a →
    ∃ t, exec (.drw x y n) s = .next t ∧ Unchanged [] [] s t ∧ Ends (StepOut.quiet (.addressFault a)) s t

/-- R153 b, with the second flag as conflict C9 settles it: after a draw, a draw of the same rows at the same coordinates
onto the display the first one left restores the display, and its VF is 1 exactly when a cell of the footprint was off
before the first, else 0. The second draw may name other registers, in any state with the same I, row bytes and display:
a first draw with X or Y = F overwrites its own coordinate. The footprint is R151's, with bit 7 leftmost, which the spec
takes from general knowledge (D18, log entry 8). -/
def Obligations.DrawTwiceRestoresTheDisplay : Prop :=
  ∀ (s t u : State) (x y p q : Reg) (n : BitVec 4), (∀ k, k < n.toNat → ReadOk (s.effective k)) →
    exec (.drw x y n) s = .next t → u.display = t.display → u.i = s.i →
    (∀ k, k < n.toNat → u.element k = s.element k) →
    (u.reg p).toNat % 64 = (s.reg x).toNat % 64 → (u.reg q).toNat % 32 = (s.reg y).toNat % 32 →
    ∃ w, exec (.drw p q n) u = .next w ∧ w.display = s.display ∧
      ((∃ px py, s.inFootprint x y n px py ∧ s.display.pixel px py = false) → (w.reg flagReg).toNat = 1) ∧
      ((¬ ∃ px py, s.inFootprint x y n px py ∧ s.display.pixel px py = false) → (w.reg flagReg).toNat = 0)

/-! ## Timers and keypad -/

/-- R160, R161, EX9E and EXA1: with V[X] a key index, pc moves 2 further exactly when that key is pressed, or exactly when
it is not; else KeyIndexFault with no skip (D6). -/
def Obligations.SkipsOnTheLatchedKey : Prop :=
  ∀ (s : State) (x : Reg),
    IsWordOf (0xE09E + x.val * 256) (.skp x) ∧ IsWordOf (0xE0A1 + x.val * 256) (.sknp x) ∧
    ((s.reg x).toNat ≤ 15 →
      (∃ t, exec (.skp x) s = .next t ∧
        t.pc = (if s.keypad.getLsbD (s.reg x).toNat = true then s.pc + 2 else s.pc) ∧
        Unchanged [] [.pc] s t ∧ EndsOk s t) ∧
      (∃ t, exec (.sknp x) s = .next t ∧
        t.pc = (if s.keypad.getLsbD (s.reg x).toNat = true then s.pc else s.pc + 2) ∧
        Unchanged [] [.pc] s t ∧ EndsOk s t)) ∧
    (15 < (s.reg x).toNat → ∀ i, i = .skp x ∨ i = .sknp x →
      ∃ t, exec i s = .next t ∧ Unchanged [] [] s t ∧ Ends (StepOut.quiet (.keyIndexFault (s.reg x))) s t)

/-- R162, R164, R165, FX07, FX15, FX18: VX is DT, DT is VX, ST is VX; playAudio and all else unchanged. -/
def Obligations.TimerMoves : Prop :=
  ∀ (s : State) (x : Reg),
    IsWordOf (0xF007 + x.val * 256) (.ldVxDt x) ∧ IsWordOf (0xF015 + x.val * 256) (.ldDtVx x) ∧
    IsWordOf (0xF018 + x.val * 256) (.ldStVx x) ∧
    (∃ t, exec (.ldVxDt x) s = .next t ∧ t.reg x = s.dt ∧ Unchanged [x] [] s t ∧ EndsOk s t) ∧
    (∃ t, exec (.ldDtVx x) s = .next t ∧ t.dt = s.reg x ∧ Unchanged [] [.dt] s t ∧ EndsOk s t) ∧
    (∃ t, exec (.ldStVx x) s = .next t ∧ t.st = s.reg x ∧ Unchanged [] [.st] s t ∧ EndsOk s t)

/-- R163, FX0A: VX is the least pressed key (D8); with none pressed, pc goes back to this instruction, keyWait is raised
and nothing else changes (D7). -/
def Obligations.KeyWaitTakesTheLeastKey : Prop :=
  ∀ (s : State) (x : Reg), IsWordOf (0xF00A + x.val * 256) (.ldVxK x) ∧
    (∀ k : Fin 16, s.keypad.getLsbD k.val = true → (∀ j, j < k.val → s.keypad.getLsbD j = false) →
      ∃ t, exec (.ldVxK x) s = .next t ∧ (t.reg x).toNat = k.val ∧ Unchanged [x] [] s t ∧ EndsOk s t) ∧
    (s.keypad = 0 → ∃ t, exec (.ldVxK x) s = .next t ∧ t.pc = s.pc - 2 ∧ Unchanged [] [.pc] s t ∧
      Ends { status := .ok, halted := false, displayDirty := false, keyWait := true } s t)

/-! ## Statuses, over all instructions -/

/-- R179: a Step with a non-Ok status leaves exactly the state before it, plus the pc advance, and for a fetch fault not
even that; it raises no signal. -/
def Obligations.NonOkStepsOnlyAdvancePc : Prop :=
  ∀ (rnd : Byte) (s t : State), stepWith rnd s = .next t → t.out.status ≠ .ok →
    Unchanged [] [.pc, .rnd] s t ∧ t.memory = s.memory ∧ t.out = StepOut.quiet t.out.status ∧
    (s.pc.toNat < 4095 → t.pc = s.pc + 2) ∧ (4095 ≤ s.pc.toNat → s.pc.toNat = 4095 ∧ t.pc = s.pc)

/-- R178: which status each instruction can raise, and what it records. Every instruction not named raises none. -/
def Obligations.EachInstructionRaisesItsOwnStatus : Prop :=
  ∀ (i : Instr) (s t : State), exec i s = .next t →
    t.out.status = .ok ∨
    (∃ nnn, i = .call nnn ∧ s.sp.val = 16 ∧ t.out.status = .stackOverflow (s.pc - 2)) ∨
    (i = .ret ∧ s.sp.val = 0 ∧ t.out.status = .stackUnderflow (s.pc - 2)) ∨
    (∃ x y n a, i = .drw x y n ∧ FirstFailing ReadOk s n.toNat a ∧ t.out.status = .addressFault a) ∨
    (∃ x a, i = .loadRegs x ∧ FirstFailing ReadOk s (x.val + 1) a ∧ t.out.status = .addressFault a) ∨
    (∃ x a, i = .storeRegs x ∧ FirstFailing WriteOk s (x.val + 1) a ∧ t.out.status = .addressFault a) ∨
    (∃ x a, i = .ldB x ∧ FirstFailing WriteOk s 3 a ∧ t.out.status = .addressFault a) ∨
    (∃ x, (i = .skp x ∨ i = .sknp x) ∧ 15 < (s.reg x).toNat ∧ t.out.status = .keyIndexFault (s.reg x))

/-- The model's sticky record (R188, log entry 3): a Step keeps a recorded first non-Ok status, and records its own when
there is none yet. -/
def Obligations.FirstNonOkStatusIsSticky : Prop :=
  ∀ (rnd : Byte) (s t : State), stepWith rnd s = .next t →
    (∀ f, s.firstNonOk = some f → t.firstNonOk = some f) ∧
    (s.firstNonOk = none → t.firstNonOk = t.out.status.nonOk)

/-! ## Who writes what, over all instructions -/

/-- R46: memory is written only by FX33 and FX55, the display by 00E0 and DXYN, the stack by 2NNN, sp by 2NNN and 00EE, I by
ANNN, FX1E and FX29, DT by FX15, ST by FX18. -/
def Obligations.OnlyTheNamedInstructionsWrite : Prop :=
  ∀ (i : Instr) (s t : State), exec i s = .next t →
    (t.memory = s.memory ∨ (∃ x, i = .ldB x) ∨ ∃ x, i = .storeRegs x) ∧
    (t.display = s.display ∨ i = .cls ∨ ∃ x y n, i = .drw x y n) ∧
    (t.stack = s.stack ∨ ∃ nnn, i = .call nnn) ∧
    (t.sp = s.sp ∨ i = .ret ∨ ∃ nnn, i = .call nnn) ∧
    (t.i = s.i ∨ (∃ nnn, i = .ldI nnn) ∨ (∃ x, i = .addI x) ∨ ∃ x, i = .ldF x) ∧
    (t.dt = s.dt ∨ ∃ x, i = .ldDtVx x) ∧
    (t.st = s.st ∨ ∃ x, i = .ldStVx x)

/-- R21: an instruction that changes VF is one of the six flag writers, or has VF as its destination. -/
def Obligations.FlagWritersAreTheSix : Prop :=
  ∀ (i : Instr) (s t : State), exec i s = .next t → t.reg flagReg ≠ s.reg flagReg →
    (∃ x y, i = .addReg x y ∨ i = .subReg x y ∨ i = .shrReg x y ∨ i = .subnReg x y ∨ i = .shlReg x y) ∨
    (∃ x y n, i = .drw x y n) ∨
    (∃ nn, i = .ldImm flagReg nn ∨ i = .addImm flagReg nn ∨ i = .rnd flagReg nn) ∨
    (∃ y, i = .ldReg flagReg y ∨ i = .orReg flagReg y ∨ i = .andReg flagReg y ∨ i = .xorReg flagReg y) ∨
    i = .ldVxDt flagReg ∨ i = .ldVxK flagReg ∨ i = .loadRegs flagReg

/-- R181: no Step writes the keypad or playAudio; nor, in the model, the parameters (R32), the coming inputs and the
draw counter. -/
def Obligations.ProgramsCannotWriteTheHostsLatches : Prop :=
  ∀ (rnd : Byte) (s t : State), stepWith rnd s = .next t →
    t.keypad = s.keypad ∧ t.playAudio = s.playAudio ∧ t.config = s.config ∧ t.inputs = s.inputs ∧ t.draws = s.draws

/-- R51, R58, C4, D5: no Step changes a byte of 0x000 to 0x04F. -/
def Obligations.FontIsImmutable : Prop :=
  ∀ (rnd : Byte) (s t : State) (a : Nat), stepWith rnd s = .next t → a ≤ 0x04F →
    t.memory.read a = s.memory.read a

/-! ## Who reads what, over all instructions -/

/-- R27, R28: no instruction reads ST or playAudio. With other values of the two, an instruction does the same to all the
rest. -/
def Obligations.NoInstructionReadsTheSoundTimer : Prop :=
  ∀ (i : Instr) (s t : State) (b : Byte) (p : Bool), exec i s = .next t →
    ∃ u, exec i { s with st := b, playAudio := p } = .next u ∧ { u with st := t.st, playAudio := t.playAudio } = t

/-- R41: only CXNN reads the input byte of the Step. -/
def Obligations.OnlyRandomReadsTheInputByte : Prop :=
  ∀ (i : Instr) (s t : State) (r : Byte), (∀ x nn, i ≠ .rnd x nn) → exec i s = .next t →
    ∃ u, exec i { s with rnd := r } = .next u ∧ { u with rnd := t.rnd } = t

/-- R24: a popped entry's stale value is not readable by any instruction. Two stacks that agree on the entries in use
lead to the same state but for entries not in use. -/
def Obligations.PoppedEntriesAreUnreadable : Prop :=
  ∀ (i : Instr) (s t : State) (k : Vector Word 16), (∀ j : Fin 16, j.val < s.sp.val → k[j.val] = s.stack[j.val]) →
    exec i s = .next t →
    ∃ u, exec i { s with stack := k } = .next u ∧ { u with stack := t.stack } = t ∧
      ∀ j : Fin 16, j.val < t.sp.val → u.stack[j.val] = t.stack[j.val]

/-! ## Two instructions together -/

/-- R108: after a call that was made, a return from any state with the same sp and the same top entry goes to the
instruction after the call, at the depth before it. -/
def Obligations.CallThenReturnComesBack : Prop :=
  ∀ (s t u : State) (nnn : BitVec 12) (k : Fin 16), exec (.call nnn) s = .next t → s.sp.val = k.val →
    u.sp = t.sp → u.stack[k.val] = t.stack[k.val] →
    ∃ w, exec .ret u = .next w ∧ w.pc = s.pc ∧ w.sp = s.sp ∧ w.out.status = .ok

/-- R145's round trip: after FX55 that stored, FX65 in any state with the same I and the same bytes there loads the
stored values again, and leaves the registers above X. -/
def Obligations.StoreThenLoadGivesTheRegistersBack : Prop :=
  ∀ (s t u : State) (x : Reg), exec (.storeRegs x) s = .next t → t.out.status = .ok → u.i = s.i →
    (∀ k, k < x.val + 1 → u.memory.read (s.effective k) = t.memory.read (s.effective k)) →
    ∃ w, exec (.loadRegs x) u = .next w ∧ w.out.status = .ok ∧
      (∀ r : Reg, r.val ≤ x.val → w.reg r = s.reg r) ∧ (∀ r : Reg, x.val < r.val → w.reg r = u.reg r)

/-- R65: a store over the next instruction is what the next Step fetches. -/
def Obligations.StoreIsSeenByTheNextFetch : Prop :=
  ∀ (s t : State) (x j k : Reg), exec (.storeRegs x) s = .next t → t.out.status = .ok →
    k.val = j.val + 1 → k.val ≤ x.val → s.effective j.val = s.pc.toNat →
    t.fetch = .bytes (s.reg j) (s.reg k) ∧ t.wordAtPc = wordOf (s.reg j) (s.reg k)

/-! ## Runs of the model's step -/

/-- R72: a halted core stays halted; Steps change nothing but report halted, and the host's events between them (log entry 5) go on
acting. -/
def Obligations.HaltedForever : Prop :=
  ∀ (s : State) (n : Nat), s.halted →
    ∃ t, Sys2Proof.core.run n s = .next t ∧ Unchanged [] hostParts s t ∧ HostActed n s t ∧
      t.firstNonOk = s.firstNonOk ∧
      (0 < n → t.out = { status := .ok, halted := true, displayDirty := false, keyWait := false })

/-- R73, D3: at pc = 0xFFF every Step reports AddressFault(4096) and pc stays; nothing but what the host's
events (log entry 5) write changes. -/
def Obligations.FetchFaultRepeatsForever : Prop :=
  ∀ (s : State) (n : Nat), s.pc.toNat = 4095 →
    ∃ t, Sys2Proof.core.run n s = .next t ∧ Unchanged [] hostParts s t ∧ HostActed n s t ∧
      (0 < n → t.out = StepOut.quiet (.addressFault 4096) ∧ t.firstNonOk ≠ none)

/-- R109, R204 b: a core parked on a self-jump stays parked; Steps change nothing, and the host's events between them (log
entry 5) go on acting. -/
def Obligations.ParkedForever : Prop :=
  ∀ (s : State) (n : Nat), s.parked →
    ∃ t, Sys2Proof.core.run n s = .next t ∧ Unchanged [] hostParts s t ∧ HostActed n s t ∧ t.parked ∧
      t.firstNonOk = s.firstNonOk ∧ (0 < n → t.out = StepOut.quiet .ok)

/-- R163: while no key is latched and no SetKeys comes, an FX0A repeats: every Step raises keyWait and changes nothing;
Ticks and AckAudio between (log entry 5) go on acting. -/
def Obligations.KeyWaitHoldsUntilSetKeys : Prop :=
  ∀ (s : State) (n : Nat) (x : Reg), s.pc.toNat < 4095 → decodeWord s.wordAtPc = .ok (.ldVxK x) → s.keypad = 0 →
    (∀ es ∈ s.inputs, ∀ e ∈ es, ∀ k, e ≠ .setKeys k) →
    ∃ t, Sys2Proof.core.run n s = .next t ∧ Unchanged [] [.dt, .st, .playAudio, .rnd, .draws, .inputs] s t ∧
      HostActed n s t ∧ t.firstNonOk = s.firstNonOk ∧
      (0 < n → t.out = { status := .ok, halted := false, displayDirty := false, keyWait := true })

/-- R201: a Step that finds the word 0x0000 reports UnknownOpcode(0x0000) and goes on 2 further, from every state. So from
Reset with nothing loaded, for any parameters and whatever host events come (log entry 5), 1792 Steps report it one after
the other, and then the core is halted; nothing but pc and what the host's events write changes. -/
def Obligations.EmptyMemoryRunsIntoTheHalt : Prop :=
  (∀ s : State, s.pc.toNat < 4095 → s.wordAtPc = 0 →
    ∃ t, step s = .next t ∧ t.pc.toNat = s.pc.toNat + 2 ∧ Unchanged [] (.pc :: hostParts) s t ∧ HostActed 1 s t ∧
      Ends (StepOut.quiet (.unknownOpcode 0 s.pc)) s t) ∧
  (∀ (c : Config) (schedule : List (List InputEvent)) (s : State) (n : Nat),
    s = { State.resetWith c with inputs := schedule } →
    ∃ t, Sys2Proof.core.run n s = .next t ∧ t.pc.toNat = min (0x200 + 2 * n) 0x1000 ∧
      Unchanged [] (.pc :: hostParts) s t ∧ HostActed n s t ∧
      (0 < n → t.firstNonOk = some (.unknownOpcode 0 0x200)) ∧
      (0 < n → n ≤ 1792 → t.out = StepOut.quiet (.unknownOpcode 0 (BitVec.ofNat 16 (0x200 + 2 * (n - 1))))) ∧
      (1792 < n → t.out = { status := .ok, halted := true, displayDirty := false, keyWait := false }))

/-! ## Host and timer events -/

/-- R182 over n Ticks: each timer falls by one a Tick and stops at 0, so a timer of n is 0 after exactly n; playAudio is
raised by the Ticks that find ST above 0, so after n Ticks and an AckAudio the next Tick raises it exactly when n is
below the ST of the start; nothing else changes. -/
def Obligations.TicksCountDownToZero : Prop :=
  ∀ (s t : State) (n : Nat), Nat.iterate State.tick n s = t →
    t.dt.toNat = s.dt.toNat - n ∧ t.st.toNat = s.st.toNat - n ∧
    t.playAudio = (s.playAudio || decide (0 < n ∧ 0 < s.st.toNat)) ∧
    t.ackAudio.tick.playAudio = decide (n < s.st.toNat) ∧
    Unchanged [] [.dt, .st, .playAudio] s t ∧ t.out = s.out ∧ t.firstNonOk = s.firstNonOk

/-- R43, R44, R45: SetKeys writes the 16 key states, AckAudio clears playAudio, ReadDisplay returns the display; nothing
else changes. -/
def Obligations.HostEventsWriteTheirLatchAlone : Prop :=
  ∀ (s : State) (k : BitVec 16),
    (∀ j : Fin 16, (s.input (.setKeys k)).keyDown j.val = k.getLsbD j.val) ∧
    Unchanged [] [.keypad] s (s.input (.setKeys k)) ∧
    (s.input .ackAudio).playAudio = false ∧ Unchanged [] [.playAudio] s (s.input .ackAudio) ∧
    (∀ px py, s.readDisplay.pixel px py = s.display.pixel px py) ∧ s.input .readDisplay = s ∧
    s.input .tick = s.tick

/-- R34, R200: what Reset leaves, for any parameters, from any state. -/
def Obligations.ResetLeavesEveryValueOfTheTable : Prop :=
  ∀ s t : State, s.resetEvent = t →
    (∀ r, t.reg r = 0) ∧ t.pc = 0x200 ∧ t.i = 0 ∧ t.sp.val = 0 ∧ (∀ k : Fin 16, t.stack[k.val] = 0) ∧
    t.dt = 0 ∧ t.st = 0 ∧ t.playAudio = false ∧ (∀ k : Fin 16, t.keyDown k.val = false) ∧
    (∀ px py, t.display.pixel px py = false) ∧
    (∀ a : Fin 80, t.memory.read a.val = s.config.font[a.val]) ∧
    (∀ a, 0x050 ≤ a → a < 4096 → t.memory.read a = 0)

/-- R202, R176: a Load that fits writes its bytes at 0x200 on and no other byte; one that does not is RomTooLarge with
nothing written, and leaves the host's order at off (D24; the phases are log entry 15). -/
def Obligations.LoadWritesTheProgram : Prop :=
  ∀ (s : State) (bytes : List Byte),
    (0x200 + bytes.length ≤ 4096 → ∃ t, s.load bytes = .ok t ∧
      (∀ k : Fin bytes.length, t.memory.read (0x200 + k.val) = bytes[k.val]) ∧
      (∀ a, a < 0x200 ∨ 0x200 + bytes.length ≤ a → t.memory.read a = s.memory.read a) ∧
      Unchanged [] [.memory] s t ∧ t.out = s.out ∧ t.firstNonOk = s.firstNonOk) ∧
    (4096 < 0x200 + bytes.length → s.load bytes = .romTooLarge ∧
      (Session.mk .fresh s).apply (.load bytes) = some (Session.mk .off s))

/-! ## The invariant -/

/-- The invariant (memory canonical, font intact, pc at most 0x10FE, return addresses at most 0x1000, statuses recorded)
holds right after Reset. -/
def Obligations.ResetMeetsTheInvariant : Prop := State.reset.Inv

/-- Every step of the model keeps the invariant, from every state that meets it (R22, R51, R102). -/
def Obligations.EveryStepKeepsTheInvariant : Prop :=
  ∀ s t : State, s.Inv → step s = .next t → t.Inv

/-- Every sequence of events in the host's order (R203, read as phases: log entry 15), with any parameters, any program and
any input bytes, leads to a state that meets the invariant, and from a running machine every Step and every host event
has a next state. -/
def Obligations.EveryLegalSessionKeepsTheInvariant : Prop :=
  ∀ (c : Config) (events : List Event) (p : Session), (Session.powerOn c).applyAll events = some p →
    (p.phase ≠ .off → p.state.Inv) ∧
    (p.phase = .running → (∀ rnd, (p.apply (.step rnd)).isSome) ∧ ∀ e, (p.apply (.input e)).isSome)

/-- Each event keeps the invariant: from every machine, in any phase of the host's order (R203, read as phases: log entry
15), that meets it unless it is off, any Reset, Load, host event, Tick or Step that the order admits leads to a machine
that meets it unless it is off. A Reset makes it hold from any state. -/
def Obligations.EveryEventKeepsTheInvariant : Prop :=
  ∀ (p q : Session) (e : Event), (p.phase ≠ .off → p.state.Inv) → p.apply e = some q → q.phase ≠ .off → q.state.Inv
end

