-- ==== Sys2Proof/Laws/Memory.lean ====
section
/-! SUPPORT. The laws of memory: read after write, block writes, and that every operation keeps the canonical form. -/

namespace Sys2Proof.Machine

/-! ## Read after write -/

theorem Memory.read_filter_ne (m : Memory) (a b : Nat) (h : b ≠ a) :
    Memory.read (m.filter (fun c => c.1 != a)) b = Memory.read m b := by
  induction m with
  | nil => rfl
  | cons c m ih =>
    obtain ⟨k, v⟩ := c
    by_cases hk : k = a
    · subst hk; simp [Memory.read, ih, Ne.symm h]
    · simp [hk, Memory.read, ih]

theorem Memory.read_filter_same (m : Memory) (a : Nat) :
    Memory.read (m.filter (fun c => c.1 != a)) a = resetByte a := by
  induction m with
  | nil => rfl
  | cons c m ih =>
    obtain ⟨k, v⟩ := c
    by_cases hk : k = a
    · subst hk; simpa using ih
    · simp [hk, Memory.read, ih]

theorem Memory.read_insertCell_ne (m : Memory) (a b : Nat) (v : Byte) (h : b ≠ a) :
    Memory.read (Memory.insertCell a v m) b = Memory.read m b := by
  induction m with
  | nil => simp [Memory.insertCell, Memory.read, Ne.symm h]
  | cons c m ih =>
    obtain ⟨k, w⟩ := c
    by_cases hk : a < k
    · simp [Memory.insertCell, hk, Memory.read, Ne.symm h]
    · simp [Memory.insertCell, hk, Memory.read, ih]

theorem Memory.read_insertCell_same (m : Memory) (a : Nat) (v : Byte) (h : ∀ c ∈ m, c.1 ≠ a) :
    Memory.read (Memory.insertCell a v m) a = v := by
  induction m with
  | nil => simp [Memory.insertCell, Memory.read]
  | cons c m ih =>
    obtain ⟨k, w⟩ := c
    by_cases hk : a < k
    · simp [Memory.insertCell, hk, Memory.read]
    · have hka : k ≠ a := h (k, w) (by simp)
      simp [Memory.insertCell, hk, Memory.read, hka, ih (fun c hc => h c (by simp [hc]))]

/-- The byte just written is read back. -/
@[simp] theorem Memory.read_write_same (m : Memory) (a : Nat) (v : Byte) : (m.write a v).read a = v := by
  unfold Memory.write
  by_cases hv : v = resetByte a
  · simpa [hv] using Memory.read_filter_same m a
  · simpa [hv] using Memory.read_insertCell_same _ a v (by simp)

/-- A write leaves every other address alone. -/
theorem Memory.read_write_ne (m : Memory) (a b : Nat) (v : Byte) (h : b ≠ a) :
    (m.write a v).read b = m.read b := by
  unfold Memory.write
  by_cases hv : v = resetByte a
  · simpa [hv] using Memory.read_filter_ne m a b h
  · simp only [hv, if_false]
    rw [Memory.read_insertCell_ne _ a b v h, Memory.read_filter_ne m a b h]

/-- A block write leaves every address outside the block alone. -/
theorem Memory.read_writeBlock_outside (m : Memory) (a b : Nat) (bs : List Byte)
    (h : b < a ∨ a + bs.length ≤ b) : (m.writeBlock a bs).read b = m.read b := by
  induction bs generalizing m a with
  | nil => rfl
  | cons v bs ih =>
    simp only [List.length_cons] at h
    rw [Memory.writeBlock, ih _ _ (by omega), Memory.read_write_ne _ _ _ _ (by omega)]

/-- Element k of a block write is read back at offset k. -/
theorem Memory.read_writeBlock_inside (m : Memory) (a k : Nat) (bs : List Byte) (h : k < bs.length) :
    (m.writeBlock a bs).read (a + k) = bs[k] := by
  induction bs generalizing m a k with
  | nil => simp at h
  | cons v bs ih =>
    cases k with
    | zero => simp [Memory.writeBlock, Memory.read_writeBlock_outside]
    | succ k =>
      have := ih (m.write a v) (a + 1) k (by simpa using h)
      simpa [Memory.writeBlock, Nat.add_assoc, Nat.add_comm 1 k] using this

/-! ## The canonical form -/

theorem Memory.wf_nil : Memory.wf [] := ⟨List.Pairwise.nil, by simp⟩

theorem Memory.mem_insertCell {m : Memory} {a : Nat} {v : Byte} {c : Host.Cell} :
    c ∈ Memory.insertCell a v m ↔ c = (a, v) ∨ c ∈ m := by
  induction m with
  | nil => simp [Memory.insertCell]
  | cons d m ih =>
    obtain ⟨k, w⟩ := d
    by_cases hk : a < k
    · simp [Memory.insertCell, hk]
    · simp only [Memory.insertCell, hk, if_false, List.mem_cons, ih]
      tauto

theorem Memory.pairwise_insertCell {m : Memory} {a : Nat} {v : Byte}
    (hm : m.Pairwise (fun c d => c.1 < d.1)) (ha : ∀ c ∈ m, c.1 ≠ a) :
    (Memory.insertCell a v m).Pairwise (fun c d => c.1 < d.1) := by
  induction m with
  | nil => simp [Memory.insertCell]
  | cons d m ih =>
    obtain ⟨k, w⟩ := d
    rw [List.pairwise_cons] at hm
    by_cases hk : a < k
    · simp only [Memory.insertCell, hk, if_true, List.pairwise_cons, List.mem_cons, forall_eq_or_imp, true_and]
      exact ⟨fun c hc => Nat.lt_trans hk (hm.1 c hc), hm.1, hm.2⟩
    · have hka : k ≠ a := ha (k, w) (by simp)
      simp only [Memory.insertCell, hk, if_false, List.pairwise_cons]
      refine ⟨fun c hc => ?_, ih hm.2 (fun c hc => ha c (by simp [hc]))⟩
      rcases Memory.mem_insertCell.1 hc with rfl | hc
      · show k < a
        omega
      · exact hm.1 c hc

/-- A write below 4096 keeps the canonical form. -/
theorem Memory.wf_write {m : Memory} (hm : m.wf) {a : Nat} (ha : a < 4096) (v : Byte) : (m.write a v).wf := by
  have hrest : Memory.wf (m.filter (fun c => c.1 != a)) :=
    ⟨hm.1.filter _, fun c hc => hm.2 c (List.mem_filter.1 hc).1⟩
  have hne : ∀ c ∈ m.filter (fun c => c.1 != a), c.1 ≠ a := by simp
  unfold Memory.write
  by_cases hv : v = resetByte a
  · simpa [hv] using hrest
  · simp only [hv, if_false]
    refine ⟨Memory.pairwise_insertCell hrest.1 hne, fun c hc => ?_⟩
    rcases Memory.mem_insertCell.1 hc with rfl | hc
    · exact ⟨ha, hv⟩
    · exact hrest.2 c hc

/-- A block write below 4096 keeps the canonical form. -/
theorem Memory.wf_writeBlock {m : Memory} (hm : m.wf) (a : Nat) (bs : List Byte) (h : a + bs.length ≤ 4096) :
    (m.writeBlock a bs).wf := by
  induction bs generalizing m a with
  | nil => exact hm
  | cons v bs ih =>
    simp only [List.length_cons] at h
    exact ih (Memory.wf_write hm (by omega) v) (a + 1) (by omega)

end Sys2Proof.Machine
end

