-- ==== Sys2Proof/Laws/State.lean ====
section
/-! SUPPORT. One lemma per field per named update of State, each true by rfl, so that no later proof unfolds an update. -/

namespace Sys2Proof.Machine

/-! ## Ways to end, as reports -/

@[simp] theorem State.finish_eq (s : State) : s.finish = s.report (StepOut.quiet .ok) := rfl
@[simp] theorem State.finishDrawn_eq (s : State) :
    s.finishDrawn = s.report { StepOut.quiet .ok with displayDirty := true } := rfl
@[simp] theorem State.finishWaiting_eq (s : State) :
    s.finishWaiting = s.report { StepOut.quiet .ok with keyWait := true } := rfl
@[simp] theorem State.finishHalted_eq (s : State) :
    s.finishHalted = s.report { StepOut.quiet .ok with halted := true } := rfl
@[simp] theorem State.raise_eq (s : State) (st : Status) : s.raise st = s.report (StepOut.quiet st) := rfl
@[simp] theorem StepOut.quiet_status (st : Status) : (StepOut.quiet st).status = st := rfl
@[simp] theorem StepOut.quiet_halted (st : Status) : (StepOut.quiet st).halted = false := rfl
@[simp] theorem StepOut.quiet_displayDirty (st : Status) : (StepOut.quiet st).displayDirty = false := rfl
@[simp] theorem StepOut.quiet_keyWait (st : Status) : (StepOut.quiet st).keyWait = false := rfl
@[simp] theorem Status.nonOk_ok : Status.nonOk .ok = none := rfl
@[simp] theorem Status.nonOk_eq_none {st : Status} : st.nonOk = none ↔ st = .ok := by cases st <;> simp [Status.nonOk]
@[simp] theorem State.advance_eq (s : State) : s.advance = s.setPc (s.pc + 2) := rfl
@[simp] theorem State.setResultFlag_eq (s : State) (x : Reg) (b : Byte) (f : Bool) :
    s.setResultFlag x b f = (s.setReg x b).setReg flagReg (flagByte f) := rfl
@[simp] theorem State.storeAtI_eq (s : State) (bs : List Byte) :
    s.storeAtI bs = s.setMemory (s.memory.writeBlock (s.effective 0) bs) := rfl

/-! ## setReg -/

@[simp] theorem State.setReg_v (s : State) (r : Reg) (b : Byte) : (s.setReg r b).v = s.v.set r.val b := rfl
@[simp] theorem State.setReg_pc (s : State) (r : Reg) (b : Byte) : (s.setReg r b).pc = s.pc := rfl
@[simp] theorem State.setReg_i (s : State) (r : Reg) (b : Byte) : (s.setReg r b).i = s.i := rfl
@[simp] theorem State.setReg_stack (s : State) (r : Reg) (b : Byte) : (s.setReg r b).stack = s.stack := rfl
@[simp] theorem State.setReg_sp (s : State) (r : Reg) (b : Byte) : (s.setReg r b).sp = s.sp := rfl
@[simp] theorem State.setReg_dt (s : State) (r : Reg) (b : Byte) : (s.setReg r b).dt = s.dt := rfl
@[simp] theorem State.setReg_st (s : State) (r : Reg) (b : Byte) : (s.setReg r b).st = s.st := rfl
@[simp] theorem State.setReg_playAudio (s : State) (r : Reg) (b : Byte) :
    (s.setReg r b).playAudio = s.playAudio := rfl
@[simp] theorem State.setReg_keypad (s : State) (r : Reg) (b : Byte) : (s.setReg r b).keypad = s.keypad := rfl
@[simp] theorem State.setReg_display (s : State) (r : Reg) (b : Byte) : (s.setReg r b).display = s.display := rfl
@[simp] theorem State.setReg_memory (s : State) (r : Reg) (b : Byte) : (s.setReg r b).memory = s.memory := rfl
@[simp] theorem State.setReg_config (s : State) (r : Reg) (b : Byte) : (s.setReg r b).config = s.config := rfl
@[simp] theorem State.setReg_rnd (s : State) (r : Reg) (b : Byte) : (s.setReg r b).rnd = s.rnd := rfl
@[simp] theorem State.setReg_draws (s : State) (r : Reg) (b : Byte) : (s.setReg r b).draws = s.draws := rfl
@[simp] theorem State.setReg_inputs (s : State) (r : Reg) (b : Byte) : (s.setReg r b).inputs = s.inputs := rfl
@[simp] theorem State.setReg_out (s : State) (r : Reg) (b : Byte) : (s.setReg r b).out = s.out := rfl
@[simp] theorem State.setReg_firstNonOk (s : State) (r : Reg) (b : Byte) :
    (s.setReg r b).firstNonOk = s.firstNonOk := rfl

/-! ## setPc -/

@[simp] theorem State.setPc_v (s : State) (a : Word) : (s.setPc a).v = s.v := rfl
@[simp] theorem State.setPc_pc (s : State) (a : Word) : (s.setPc a).pc = a := rfl
@[simp] theorem State.setPc_i (s : State) (a : Word) : (s.setPc a).i = s.i := rfl
@[simp] theorem State.setPc_stack (s : State) (a : Word) : (s.setPc a).stack = s.stack := rfl
@[simp] theorem State.setPc_sp (s : State) (a : Word) : (s.setPc a).sp = s.sp := rfl
@[simp] theorem State.setPc_dt (s : State) (a : Word) : (s.setPc a).dt = s.dt := rfl
@[simp] theorem State.setPc_st (s : State) (a : Word) : (s.setPc a).st = s.st := rfl
@[simp] theorem State.setPc_playAudio (s : State) (a : Word) : (s.setPc a).playAudio = s.playAudio := rfl
@[simp] theorem State.setPc_keypad (s : State) (a : Word) : (s.setPc a).keypad = s.keypad := rfl
@[simp] theorem State.setPc_display (s : State) (a : Word) : (s.setPc a).display = s.display := rfl
@[simp] theorem State.setPc_memory (s : State) (a : Word) : (s.setPc a).memory = s.memory := rfl
@[simp] theorem State.setPc_config (s : State) (a : Word) : (s.setPc a).config = s.config := rfl
@[simp] theorem State.setPc_rnd (s : State) (a : Word) : (s.setPc a).rnd = s.rnd := rfl
@[simp] theorem State.setPc_draws (s : State) (a : Word) : (s.setPc a).draws = s.draws := rfl
@[simp] theorem State.setPc_inputs (s : State) (a : Word) : (s.setPc a).inputs = s.inputs := rfl
@[simp] theorem State.setPc_out (s : State) (a : Word) : (s.setPc a).out = s.out := rfl
@[simp] theorem State.setPc_firstNonOk (s : State) (a : Word) : (s.setPc a).firstNonOk = s.firstNonOk := rfl

/-! ## setI -/

@[simp] theorem State.setI_v (s : State) (a : Word) : (s.setI a).v = s.v := rfl
@[simp] theorem State.setI_pc (s : State) (a : Word) : (s.setI a).pc = s.pc := rfl
@[simp] theorem State.setI_i (s : State) (a : Word) : (s.setI a).i = a := rfl
@[simp] theorem State.setI_stack (s : State) (a : Word) : (s.setI a).stack = s.stack := rfl
@[simp] theorem State.setI_sp (s : State) (a : Word) : (s.setI a).sp = s.sp := rfl
@[simp] theorem State.setI_dt (s : State) (a : Word) : (s.setI a).dt = s.dt := rfl
@[simp] theorem State.setI_st (s : State) (a : Word) : (s.setI a).st = s.st := rfl
@[simp] theorem State.setI_playAudio (s : State) (a : Word) : (s.setI a).playAudio = s.playAudio := rfl
@[simp] theorem State.setI_keypad (s : State) (a : Word) : (s.setI a).keypad = s.keypad := rfl
@[simp] theorem State.setI_display (s : State) (a : Word) : (s.setI a).display = s.display := rfl
@[simp] theorem State.setI_memory (s : State) (a : Word) : (s.setI a).memory = s.memory := rfl
@[simp] theorem State.setI_config (s : State) (a : Word) : (s.setI a).config = s.config := rfl
@[simp] theorem State.setI_rnd (s : State) (a : Word) : (s.setI a).rnd = s.rnd := rfl
@[simp] theorem State.setI_draws (s : State) (a : Word) : (s.setI a).draws = s.draws := rfl
@[simp] theorem State.setI_inputs (s : State) (a : Word) : (s.setI a).inputs = s.inputs := rfl
@[simp] theorem State.setI_out (s : State) (a : Word) : (s.setI a).out = s.out := rfl
@[simp] theorem State.setI_firstNonOk (s : State) (a : Word) : (s.setI a).firstNonOk = s.firstNonOk := rfl

/-! ## setDt -/

@[simp] theorem State.setDt_v (s : State) (b : Byte) : (s.setDt b).v = s.v := rfl
@[simp] theorem State.setDt_pc (s : State) (b : Byte) : (s.setDt b).pc = s.pc := rfl
@[simp] theorem State.setDt_i (s : State) (b : Byte) : (s.setDt b).i = s.i := rfl
@[simp] theorem State.setDt_stack (s : State) (b : Byte) : (s.setDt b).stack = s.stack := rfl
@[simp] theorem State.setDt_sp (s : State) (b : Byte) : (s.setDt b).sp = s.sp := rfl
@[simp] theorem State.setDt_dt (s : State) (b : Byte) : (s.setDt b).dt = b := rfl
@[simp] theorem State.setDt_st (s : State) (b : Byte) : (s.setDt b).st = s.st := rfl
@[simp] theorem State.setDt_playAudio (s : State) (b : Byte) : (s.setDt b).playAudio = s.playAudio := rfl
@[simp] theorem State.setDt_keypad (s : State) (b : Byte) : (s.setDt b).keypad = s.keypad := rfl
@[simp] theorem State.setDt_display (s : State) (b : Byte) : (s.setDt b).display = s.display := rfl
@[simp] theorem State.setDt_memory (s : State) (b : Byte) : (s.setDt b).memory = s.memory := rfl
@[simp] theorem State.setDt_config (s : State) (b : Byte) : (s.setDt b).config = s.config := rfl
@[simp] theorem State.setDt_rnd (s : State) (b : Byte) : (s.setDt b).rnd = s.rnd := rfl
@[simp] theorem State.setDt_draws (s : State) (b : Byte) : (s.setDt b).draws = s.draws := rfl
@[simp] theorem State.setDt_inputs (s : State) (b : Byte) : (s.setDt b).inputs = s.inputs := rfl
@[simp] theorem State.setDt_out (s : State) (b : Byte) : (s.setDt b).out = s.out := rfl
@[simp] theorem State.setDt_firstNonOk (s : State) (b : Byte) : (s.setDt b).firstNonOk = s.firstNonOk := rfl

/-! ## setSt -/

@[simp] theorem State.setSt_v (s : State) (b : Byte) : (s.setSt b).v = s.v := rfl
@[simp] theorem State.setSt_pc (s : State) (b : Byte) : (s.setSt b).pc = s.pc := rfl
@[simp] theorem State.setSt_i (s : State) (b : Byte) : (s.setSt b).i = s.i := rfl
@[simp] theorem State.setSt_stack (s : State) (b : Byte) : (s.setSt b).stack = s.stack := rfl
@[simp] theorem State.setSt_sp (s : State) (b : Byte) : (s.setSt b).sp = s.sp := rfl
@[simp] theorem State.setSt_dt (s : State) (b : Byte) : (s.setSt b).dt = s.dt := rfl
@[simp] theorem State.setSt_st (s : State) (b : Byte) : (s.setSt b).st = b := rfl
@[simp] theorem State.setSt_playAudio (s : State) (b : Byte) : (s.setSt b).playAudio = s.playAudio := rfl
@[simp] theorem State.setSt_keypad (s : State) (b : Byte) : (s.setSt b).keypad = s.keypad := rfl
@[simp] theorem State.setSt_display (s : State) (b : Byte) : (s.setSt b).display = s.display := rfl
@[simp] theorem State.setSt_memory (s : State) (b : Byte) : (s.setSt b).memory = s.memory := rfl
@[simp] theorem State.setSt_config (s : State) (b : Byte) : (s.setSt b).config = s.config := rfl
@[simp] theorem State.setSt_rnd (s : State) (b : Byte) : (s.setSt b).rnd = s.rnd := rfl
@[simp] theorem State.setSt_draws (s : State) (b : Byte) : (s.setSt b).draws = s.draws := rfl
@[simp] theorem State.setSt_inputs (s : State) (b : Byte) : (s.setSt b).inputs = s.inputs := rfl
@[simp] theorem State.setSt_out (s : State) (b : Byte) : (s.setSt b).out = s.out := rfl
@[simp] theorem State.setSt_firstNonOk (s : State) (b : Byte) : (s.setSt b).firstNonOk = s.firstNonOk := rfl

/-! ## setDisplay -/

@[simp] theorem State.setDisplay_v (s : State) (d : Display) : (s.setDisplay d).v = s.v := rfl
@[simp] theorem State.setDisplay_pc (s : State) (d : Display) : (s.setDisplay d).pc = s.pc := rfl
@[simp] theorem State.setDisplay_i (s : State) (d : Display) : (s.setDisplay d).i = s.i := rfl
@[simp] theorem State.setDisplay_stack (s : State) (d : Display) : (s.setDisplay d).stack = s.stack := rfl
@[simp] theorem State.setDisplay_sp (s : State) (d : Display) : (s.setDisplay d).sp = s.sp := rfl
@[simp] theorem State.setDisplay_dt (s : State) (d : Display) : (s.setDisplay d).dt = s.dt := rfl
@[simp] theorem State.setDisplay_st (s : State) (d : Display) : (s.setDisplay d).st = s.st := rfl
@[simp] theorem State.setDisplay_playAudio (s : State) (d : Display) : (s.setDisplay d).playAudio = s.playAudio := rfl
@[simp] theorem State.setDisplay_keypad (s : State) (d : Display) : (s.setDisplay d).keypad = s.keypad := rfl
@[simp] theorem State.setDisplay_display (s : State) (d : Display) : (s.setDisplay d).display = d := rfl
@[simp] theorem State.setDisplay_memory (s : State) (d : Display) : (s.setDisplay d).memory = s.memory := rfl
@[simp] theorem State.setDisplay_config (s : State) (d : Display) : (s.setDisplay d).config = s.config := rfl
@[simp] theorem State.setDisplay_rnd (s : State) (d : Display) : (s.setDisplay d).rnd = s.rnd := rfl
@[simp] theorem State.setDisplay_draws (s : State) (d : Display) : (s.setDisplay d).draws = s.draws := rfl
@[simp] theorem State.setDisplay_inputs (s : State) (d : Display) : (s.setDisplay d).inputs = s.inputs := rfl
@[simp] theorem State.setDisplay_out (s : State) (d : Display) : (s.setDisplay d).out = s.out := rfl
@[simp] theorem State.setDisplay_firstNonOk (s : State) (d : Display) :
    (s.setDisplay d).firstNonOk = s.firstNonOk := rfl

/-! ## setMemory -/

@[simp] theorem State.setMemory_v (s : State) (m : Memory) : (s.setMemory m).v = s.v := rfl
@[simp] theorem State.setMemory_pc (s : State) (m : Memory) : (s.setMemory m).pc = s.pc := rfl
@[simp] theorem State.setMemory_i (s : State) (m : Memory) : (s.setMemory m).i = s.i := rfl
@[simp] theorem State.setMemory_stack (s : State) (m : Memory) : (s.setMemory m).stack = s.stack := rfl
@[simp] theorem State.setMemory_sp (s : State) (m : Memory) : (s.setMemory m).sp = s.sp := rfl
@[simp] theorem State.setMemory_dt (s : State) (m : Memory) : (s.setMemory m).dt = s.dt := rfl
@[simp] theorem State.setMemory_st (s : State) (m : Memory) : (s.setMemory m).st = s.st := rfl
@[simp] theorem State.setMemory_playAudio (s : State) (m : Memory) : (s.setMemory m).playAudio = s.playAudio := rfl
@[simp] theorem State.setMemory_keypad (s : State) (m : Memory) : (s.setMemory m).keypad = s.keypad := rfl
@[simp] theorem State.setMemory_display (s : State) (m : Memory) : (s.setMemory m).display = s.display := rfl
@[simp] theorem State.setMemory_memory (s : State) (m : Memory) : (s.setMemory m).memory = m := rfl
@[simp] theorem State.setMemory_config (s : State) (m : Memory) : (s.setMemory m).config = s.config := rfl
@[simp] theorem State.setMemory_rnd (s : State) (m : Memory) : (s.setMemory m).rnd = s.rnd := rfl
@[simp] theorem State.setMemory_draws (s : State) (m : Memory) : (s.setMemory m).draws = s.draws := rfl
@[simp] theorem State.setMemory_inputs (s : State) (m : Memory) : (s.setMemory m).inputs = s.inputs := rfl
@[simp] theorem State.setMemory_out (s : State) (m : Memory) : (s.setMemory m).out = s.out := rfl
@[simp] theorem State.setMemory_firstNonOk (s : State) (m : Memory) : (s.setMemory m).firstNonOk = s.firstNonOk := rfl

/-! ## report -/

@[simp] theorem State.report_v (s : State) (o : StepOut) : (s.report o).v = s.v := rfl
@[simp] theorem State.report_pc (s : State) (o : StepOut) : (s.report o).pc = s.pc := rfl
@[simp] theorem State.report_i (s : State) (o : StepOut) : (s.report o).i = s.i := rfl
@[simp] theorem State.report_stack (s : State) (o : StepOut) : (s.report o).stack = s.stack := rfl
@[simp] theorem State.report_sp (s : State) (o : StepOut) : (s.report o).sp = s.sp := rfl
@[simp] theorem State.report_dt (s : State) (o : StepOut) : (s.report o).dt = s.dt := rfl
@[simp] theorem State.report_st (s : State) (o : StepOut) : (s.report o).st = s.st := rfl
@[simp] theorem State.report_playAudio (s : State) (o : StepOut) : (s.report o).playAudio = s.playAudio := rfl
@[simp] theorem State.report_keypad (s : State) (o : StepOut) : (s.report o).keypad = s.keypad := rfl
@[simp] theorem State.report_display (s : State) (o : StepOut) : (s.report o).display = s.display := rfl
@[simp] theorem State.report_memory (s : State) (o : StepOut) : (s.report o).memory = s.memory := rfl
@[simp] theorem State.report_config (s : State) (o : StepOut) : (s.report o).config = s.config := rfl
@[simp] theorem State.report_rnd (s : State) (o : StepOut) : (s.report o).rnd = s.rnd := rfl
@[simp] theorem State.report_draws (s : State) (o : StepOut) : (s.report o).draws = s.draws := rfl
@[simp] theorem State.report_inputs (s : State) (o : StepOut) : (s.report o).inputs = s.inputs := rfl
@[simp] theorem State.report_out (s : State) (o : StepOut) : (s.report o).out = o := rfl
@[simp] theorem State.report_firstNonOk (s : State) (o : StepOut) :
    (s.report o).firstNonOk = s.firstNonOk.or o.status.nonOk := rfl

/-! ## loadThrough -/

@[simp] theorem State.loadThrough_v (s : State) (x : Reg) :
    (s.loadThrough x).v = Vector.ofFn fun r : Reg => if r.val ≤ x.val then s.element r.val else s.reg r := rfl
@[simp] theorem State.loadThrough_pc (s : State) (x : Reg) : (s.loadThrough x).pc = s.pc := rfl
@[simp] theorem State.loadThrough_i (s : State) (x : Reg) : (s.loadThrough x).i = s.i := rfl
@[simp] theorem State.loadThrough_stack (s : State) (x : Reg) : (s.loadThrough x).stack = s.stack := rfl
@[simp] theorem State.loadThrough_sp (s : State) (x : Reg) : (s.loadThrough x).sp = s.sp := rfl
@[simp] theorem State.loadThrough_dt (s : State) (x : Reg) : (s.loadThrough x).dt = s.dt := rfl
@[simp] theorem State.loadThrough_st (s : State) (x : Reg) : (s.loadThrough x).st = s.st := rfl
@[simp] theorem State.loadThrough_playAudio (s : State) (x : Reg) : (s.loadThrough x).playAudio = s.playAudio := rfl
@[simp] theorem State.loadThrough_keypad (s : State) (x : Reg) : (s.loadThrough x).keypad = s.keypad := rfl
@[simp] theorem State.loadThrough_display (s : State) (x : Reg) : (s.loadThrough x).display = s.display := rfl
@[simp] theorem State.loadThrough_memory (s : State) (x : Reg) : (s.loadThrough x).memory = s.memory := rfl
@[simp] theorem State.loadThrough_config (s : State) (x : Reg) : (s.loadThrough x).config = s.config := rfl
@[simp] theorem State.loadThrough_rnd (s : State) (x : Reg) : (s.loadThrough x).rnd = s.rnd := rfl
@[simp] theorem State.loadThrough_draws (s : State) (x : Reg) : (s.loadThrough x).draws = s.draws := rfl
@[simp] theorem State.loadThrough_inputs (s : State) (x : Reg) : (s.loadThrough x).inputs = s.inputs := rfl
@[simp] theorem State.loadThrough_out (s : State) (x : Reg) : (s.loadThrough x).out = s.out := rfl
@[simp] theorem State.loadThrough_firstNonOk (s : State) (x : Reg) :
    (s.loadThrough x).firstNonOk = s.firstNonOk := rfl

/-! ## setKeys -/

@[simp] theorem State.setKeys_v (s : State) (k : BitVec 16) : (s.setKeys k).v = s.v := rfl
@[simp] theorem State.setKeys_pc (s : State) (k : BitVec 16) : (s.setKeys k).pc = s.pc := rfl
@[simp] theorem State.setKeys_i (s : State) (k : BitVec 16) : (s.setKeys k).i = s.i := rfl
@[simp] theorem State.setKeys_stack (s : State) (k : BitVec 16) : (s.setKeys k).stack = s.stack := rfl
@[simp] theorem State.setKeys_sp (s : State) (k : BitVec 16) : (s.setKeys k).sp = s.sp := rfl
@[simp] theorem State.setKeys_dt (s : State) (k : BitVec 16) : (s.setKeys k).dt = s.dt := rfl
@[simp] theorem State.setKeys_st (s : State) (k : BitVec 16) : (s.setKeys k).st = s.st := rfl
@[simp] theorem State.setKeys_playAudio (s : State) (k : BitVec 16) : (s.setKeys k).playAudio = s.playAudio := rfl
@[simp] theorem State.setKeys_keypad (s : State) (k : BitVec 16) : (s.setKeys k).keypad = k := rfl
@[simp] theorem State.setKeys_display (s : State) (k : BitVec 16) : (s.setKeys k).display = s.display := rfl
@[simp] theorem State.setKeys_memory (s : State) (k : BitVec 16) : (s.setKeys k).memory = s.memory := rfl
@[simp] theorem State.setKeys_config (s : State) (k : BitVec 16) : (s.setKeys k).config = s.config := rfl
@[simp] theorem State.setKeys_rnd (s : State) (k : BitVec 16) : (s.setKeys k).rnd = s.rnd := rfl
@[simp] theorem State.setKeys_draws (s : State) (k : BitVec 16) : (s.setKeys k).draws = s.draws := rfl
@[simp] theorem State.setKeys_inputs (s : State) (k : BitVec 16) : (s.setKeys k).inputs = s.inputs := rfl
@[simp] theorem State.setKeys_out (s : State) (k : BitVec 16) : (s.setKeys k).out = s.out := rfl
@[simp] theorem State.setKeys_firstNonOk (s : State) (k : BitVec 16) : (s.setKeys k).firstNonOk = s.firstNonOk := rfl

/-! ## ackAudio -/

@[simp] theorem State.ackAudio_v (s : State) : (s.ackAudio).v = s.v := rfl
@[simp] theorem State.ackAudio_pc (s : State) : (s.ackAudio).pc = s.pc := rfl
@[simp] theorem State.ackAudio_i (s : State) : (s.ackAudio).i = s.i := rfl
@[simp] theorem State.ackAudio_stack (s : State) : (s.ackAudio).stack = s.stack := rfl
@[simp] theorem State.ackAudio_sp (s : State) : (s.ackAudio).sp = s.sp := rfl
@[simp] theorem State.ackAudio_dt (s : State) : (s.ackAudio).dt = s.dt := rfl
@[simp] theorem State.ackAudio_st (s : State) : (s.ackAudio).st = s.st := rfl
@[simp] theorem State.ackAudio_playAudio (s : State) : (s.ackAudio).playAudio = false := rfl
@[simp] theorem State.ackAudio_keypad (s : State) : (s.ackAudio).keypad = s.keypad := rfl
@[simp] theorem State.ackAudio_display (s : State) : (s.ackAudio).display = s.display := rfl
@[simp] theorem State.ackAudio_memory (s : State) : (s.ackAudio).memory = s.memory := rfl
@[simp] theorem State.ackAudio_config (s : State) : (s.ackAudio).config = s.config := rfl
@[simp] theorem State.ackAudio_rnd (s : State) : (s.ackAudio).rnd = s.rnd := rfl
@[simp] theorem State.ackAudio_draws (s : State) : (s.ackAudio).draws = s.draws := rfl
@[simp] theorem State.ackAudio_inputs (s : State) : (s.ackAudio).inputs = s.inputs := rfl
@[simp] theorem State.ackAudio_out (s : State) : (s.ackAudio).out = s.out := rfl
@[simp] theorem State.ackAudio_firstNonOk (s : State) : (s.ackAudio).firstNonOk = s.firstNonOk := rfl

/-! ## tick -/

@[simp] theorem State.tick_v (s : State) : (s.tick).v = s.v := rfl
@[simp] theorem State.tick_pc (s : State) : (s.tick).pc = s.pc := rfl
@[simp] theorem State.tick_i (s : State) : (s.tick).i = s.i := rfl
@[simp] theorem State.tick_stack (s : State) : (s.tick).stack = s.stack := rfl
@[simp] theorem State.tick_sp (s : State) : (s.tick).sp = s.sp := rfl
@[simp] theorem State.tick_dt (s : State) :
    (s.tick).dt = if s.dt.toNat = 0 then s.dt else BitVec.ofNat 8 (s.dt.toNat - 1) := rfl
@[simp] theorem State.tick_st (s : State) :
    (s.tick).st = if s.st.toNat = 0 then s.st else BitVec.ofNat 8 (s.st.toNat - 1) := rfl
@[simp] theorem State.tick_playAudio (s : State) :
    (s.tick).playAudio = if s.st.toNat = 0 then s.playAudio else true := rfl
@[simp] theorem State.tick_keypad (s : State) : (s.tick).keypad = s.keypad := rfl
@[simp] theorem State.tick_display (s : State) : (s.tick).display = s.display := rfl
@[simp] theorem State.tick_memory (s : State) : (s.tick).memory = s.memory := rfl
@[simp] theorem State.tick_config (s : State) : (s.tick).config = s.config := rfl
@[simp] theorem State.tick_rnd (s : State) : (s.tick).rnd = s.rnd := rfl
@[simp] theorem State.tick_draws (s : State) : (s.tick).draws = s.draws := rfl
@[simp] theorem State.tick_inputs (s : State) : (s.tick).inputs = s.inputs := rfl
@[simp] theorem State.tick_out (s : State) : (s.tick).out = s.out := rfl
@[simp] theorem State.tick_firstNonOk (s : State) : (s.tick).firstNonOk = s.firstNonOk := rfl

/-! ## draw -/

@[simp] theorem State.draw_v (s : State) : (s.draw).v = s.v := rfl
@[simp] theorem State.draw_pc (s : State) : (s.draw).pc = s.pc := rfl
@[simp] theorem State.draw_i (s : State) : (s.draw).i = s.i := rfl
@[simp] theorem State.draw_stack (s : State) : (s.draw).stack = s.stack := rfl
@[simp] theorem State.draw_sp (s : State) : (s.draw).sp = s.sp := rfl
@[simp] theorem State.draw_dt (s : State) : (s.draw).dt = s.dt := rfl
@[simp] theorem State.draw_st (s : State) : (s.draw).st = s.st := rfl
@[simp] theorem State.draw_playAudio (s : State) : (s.draw).playAudio = s.playAudio := rfl
@[simp] theorem State.draw_keypad (s : State) : (s.draw).keypad = s.keypad := rfl
@[simp] theorem State.draw_display (s : State) : (s.draw).display = s.display := rfl
@[simp] theorem State.draw_memory (s : State) : (s.draw).memory = s.memory := rfl
@[simp] theorem State.draw_config (s : State) : (s.draw).config = s.config := rfl
@[simp] theorem State.draw_rnd (s : State) : (s.draw).rnd = s.rnd := rfl
@[simp] theorem State.draw_draws (s : State) : (s.draw).draws = s.draws + 1 := rfl
@[simp] theorem State.draw_inputs (s : State) : (s.draw).inputs = s.inputs := rfl
@[simp] theorem State.draw_out (s : State) : (s.draw).out = s.out := rfl
@[simp] theorem State.draw_firstNonOk (s : State) : (s.draw).firstNonOk = s.firstNonOk := rfl

/-! ## skipIf: pc alone -/

@[simp] theorem State.skipIf_v (s : State) (c : Bool) : (s.skipIf c).v = s.v := by cases c <;> rfl
@[simp] theorem State.skipIf_pc (s : State) (c : Bool) :
    (s.skipIf c).pc = if c then s.pc + 2 else s.pc := by cases c <;> rfl
@[simp] theorem State.skipIf_i (s : State) (c : Bool) : (s.skipIf c).i = s.i := by cases c <;> rfl
@[simp] theorem State.skipIf_stack (s : State) (c : Bool) : (s.skipIf c).stack = s.stack := by cases c <;> rfl
@[simp] theorem State.skipIf_sp (s : State) (c : Bool) : (s.skipIf c).sp = s.sp := by cases c <;> rfl
@[simp] theorem State.skipIf_dt (s : State) (c : Bool) : (s.skipIf c).dt = s.dt := by cases c <;> rfl
@[simp] theorem State.skipIf_st (s : State) (c : Bool) : (s.skipIf c).st = s.st := by cases c <;> rfl
@[simp] theorem State.skipIf_playAudio (s : State) (c : Bool) : (s.skipIf c).playAudio = s.playAudio := by cases c <;> rfl
@[simp] theorem State.skipIf_keypad (s : State) (c : Bool) : (s.skipIf c).keypad = s.keypad := by cases c <;> rfl
@[simp] theorem State.skipIf_display (s : State) (c : Bool) : (s.skipIf c).display = s.display := by cases c <;> rfl
@[simp] theorem State.skipIf_memory (s : State) (c : Bool) : (s.skipIf c).memory = s.memory := by cases c <;> rfl
@[simp] theorem State.skipIf_config (s : State) (c : Bool) : (s.skipIf c).config = s.config := by cases c <;> rfl
@[simp] theorem State.skipIf_rnd (s : State) (c : Bool) : (s.skipIf c).rnd = s.rnd := by cases c <;> rfl
@[simp] theorem State.skipIf_draws (s : State) (c : Bool) : (s.skipIf c).draws = s.draws := by cases c <;> rfl
@[simp] theorem State.skipIf_inputs (s : State) (c : Bool) : (s.skipIf c).inputs = s.inputs := by cases c <;> rfl
@[simp] theorem State.skipIf_out (s : State) (c : Bool) : (s.skipIf c).out = s.out := by cases c <;> rfl
@[simp] theorem State.skipIf_firstNonOk (s : State) (c : Bool) : (s.skipIf c).firstNonOk = s.firstNonOk := by cases c <;> rfl

end Sys2Proof.Machine
end

