-- ==== Sys2Proof/Laws/Ops.lean ====
section
/-! SUPPORT. One lemma per shared operation, saying everything it can do; proofs cite these instead of unfolding. -/

namespace Sys2Proof.Machine

/-! ## Registers -/

/-- A register reads as last written. -/
theorem State.reg_setReg (s : State) (r q : Reg) (b : Byte) :
    (s.setReg r b).reg q = if q = r then b else s.reg q := by
  simp only [State.reg, State.setReg_v, Vector.getElem_set]
  by_cases h : q = r
  · simp [h]
  · have : ¬ r.val = q.val := fun e => h (Fin.ext e.symm)
    simp [h, this]

@[simp] theorem State.reg_setReg_same (s : State) (r : Reg) (b : Byte) : (s.setReg r b).reg r = b := by
  simp [State.reg_setReg]

theorem State.reg_setReg_ne (s : State) {r q : Reg} (b : Byte) (h : q ≠ r) :
    (s.setReg r b).reg q = s.reg q := by
  simp [State.reg_setReg, h]

@[simp] theorem State.reg_setPc (s : State) (a : Word) (r : Reg) : (s.setPc a).reg r = s.reg r := rfl
@[simp] theorem State.reg_setI (s : State) (a : Word) (r : Reg) : (s.setI a).reg r = s.reg r := rfl
@[simp] theorem State.reg_setDt (s : State) (b : Byte) (r : Reg) : (s.setDt b).reg r = s.reg r := rfl
@[simp] theorem State.reg_setSt (s : State) (b : Byte) (r : Reg) : (s.setSt b).reg r = s.reg r := rfl
@[simp] theorem State.reg_setDisplay (s : State) (d : Display) (r : Reg) : (s.setDisplay d).reg r = s.reg r := rfl
@[simp] theorem State.reg_setMemory (s : State) (m : Memory) (r : Reg) : (s.setMemory m).reg r = s.reg r := rfl
@[simp] theorem State.reg_report (s : State) (o : StepOut) (r : Reg) : (s.report o).reg r = s.reg r := rfl
@[simp] theorem State.reg_skipIf (s : State) (c : Bool) (r : Reg) : (s.skipIf c).reg r = s.reg r := by
  cases c <;> rfl

/-- What FX65 leaves in each register. -/
theorem State.reg_loadThrough (s : State) (x r : Reg) :
    (s.loadThrough x).reg r = if r.val ≤ x.val then s.element r.val else s.reg r := by
  simp [State.reg, State.loadThrough_v]

/-! ## Flags and arithmetic -/

theorem flagByte_toNat (b : Bool) : (flagByte b).toNat = if b then 1 else 0 := by cases b <;> rfl

theorem addBytes_toNat (x y : Byte) : (addBytes x y).toNat = (x.toNat + y.toNat) % 256 := by simp [addBytes]

theorem subBytes_toNat (a b : Byte) : (subBytes a b).toNat = (a.toNat + 256 - b.toNat) % 256 := by simp [subBytes]

theorem shiftRightOne_toNat (b : Byte) : (shiftRightOne b).toNat = b.toNat / 2 := by
  have := b.isLt
  simp [shiftRightOne]
  omega

theorem shiftLeftOne_toNat (b : Byte) : (shiftLeftOne b).toNat = b.toNat * 2 % 256 := by simp [shiftLeftOne]

/-! ## The range check -/

/-- The check passes exactly when every address of the range passes. -/
theorem firstBad_eq_none {check : Nat → Bool} {a n : Nat} :
    firstBad check a n = none ↔ ∀ k, k < n → check (a + k) = true := by
  induction n generalizing a with
  | zero => simp [firstBad]
  | succ n ih =>
    by_cases h : check a = true
    · simp only [firstBad, h, if_true, ih]
      constructor
      · intro g k hk
        cases k with
        | zero => simpa using h
        | succ k => simpa [Nat.add_assoc, Nat.add_comm 1 k] using g k (by omega)
      · intro g k hk
        simpa [Nat.add_assoc, Nat.add_comm 1 k] using g (k + 1) (by omega)
    · simp only [firstBad, h]
      simp only [Bool.false_eq_true, if_false, reduceCtorEq, false_iff]
      exact fun g => h (by simpa using g 0 (by omega))

/-- A failing check names the lowest address that fails. -/
theorem firstBad_eq_some {check : Nat → Bool} {a n b : Nat} :
    firstBad check a n = some b ↔
      ∃ k, k < n ∧ b = a + k ∧ check b = false ∧ ∀ j, j < k → check (a + j) = true := by
  induction n generalizing a with
  | zero => simp [firstBad]
  | succ n ih =>
    by_cases h : check a = true
    · simp only [firstBad, h, if_true, ih]
      constructor
      · rintro ⟨k, hk, rfl, hb, hj⟩
        refine ⟨k + 1, by omega, by omega, hb, fun j hj' => ?_⟩
        cases j with
        | zero => simpa using h
        | succ j => simpa [Nat.add_assoc, Nat.add_comm 1 j] using hj j (by omega)
      · rintro ⟨k, hk, rfl, hb, hj⟩
        cases k with
        | zero => simp [h] at hb
        | succ k =>
          refine ⟨k, by omega, by omega, hb, fun j hj' => ?_⟩
          simpa [Nat.add_assoc, Nat.add_comm 1 j] using hj (j + 1) (by omega)
    · simp only [firstBad, h]
      simp only [Bool.false_eq_true, if_false, Option.some.injEq]
      constructor
      · rintro rfl
        exact ⟨0, by omega, by omega, by simpa using h, by omega⟩
      · rintro ⟨k, -, rfl, -, hj⟩
        cases k with
        | zero => rfl
        | succ k => exact absurd (by simpa using hj 0 (by omega)) h

theorem readable_iff {a : Nat} : readable a = true ↔ ReadOk a := by simp [readable, ReadOk]

theorem writable_iff {a : Nat} : writable a = true ↔ WriteOk a := by simp [writable, WriteOk]

theorem State.badRead_eq_none {s : State} {n : Nat} :
    s.badRead n = none ↔ ∀ k, k < n → ReadOk (s.effective k) := by
  simp [State.badRead, firstBad_eq_none, readable_iff, State.effective]

theorem State.badWrite_eq_none {s : State} {n : Nat} :
    s.badWrite n = none ↔ ∀ k, k < n → WriteOk (s.effective k) := by
  simp [State.badWrite, firstBad_eq_none, writable_iff, State.effective]

theorem State.badRead_eq_some {s : State} {n a : Nat} : s.badRead n = some a ↔ FirstFailing ReadOk s n a := by
  simp only [State.badRead, firstBad_eq_some, FirstFailing, readable_iff, State.effective, Nat.add_zero,
    ← Bool.not_eq_true]

theorem State.badWrite_eq_some {s : State} {n a : Nat} : s.badWrite n = some a ↔ FirstFailing WriteOk s n a := by
  simp only [State.badWrite, firstBad_eq_some, FirstFailing, writable_iff, State.effective, Nat.add_zero,
    ← Bool.not_eq_true]

/-! ## The stack -/

/-- A push succeeds exactly below 16 entries, writes the next free entry and counts it. -/
theorem State.push_eq_some {s t : State} {a : Word} :
    s.push a = some t ↔
      ∃ h : s.sp.val < 16, t = { s with stack := s.stack.set s.sp.val a, sp := ⟨s.sp.val + 1, by omega⟩ } := by
  unfold State.push
  by_cases h : s.sp.val < 16
  · simp [h, eq_comm]
  · simp [h]

theorem State.push_eq_none {s : State} {a : Word} : s.push a = none ↔ s.sp.val = 16 := by
  have := s.sp.isLt
  unfold State.push
  by_cases h : s.sp.val < 16
  · simp [h]
    omega
  · simp [h]
    omega

/-- A pop succeeds exactly above 0 entries, gives the top entry and uncounts it; no entry changes. -/
theorem State.pop_eq_some {s t : State} {a : Word} :
    s.pop = some (a, t) ↔
      ∃ h : 0 < s.sp.val, a = s.stack[s.sp.val - 1] ∧ t = { s with sp := ⟨s.sp.val - 1, by omega⟩ } := by
  unfold State.pop
  by_cases h : 0 < s.sp.val
  · simp [h, eq_comm]
  · simp [h]

theorem State.pop_eq_none {s : State} : s.pop = none ↔ s.sp.val = 0 := by
  unfold State.pop
  by_cases h : 0 < s.sp.val
  · simp [h]
    omega
  · simp [h]
    omega

/-! ## Fetch -/

theorem State.fetch_halted {s : State} (h : 4096 ≤ s.pc.toNat) : s.fetch = .halted := by simp [State.fetch, h]

theorem State.fetch_beyond {s : State} (h : s.pc.toNat = 4095) : s.fetch = .beyond 4096 := by
  simp [State.fetch, h]

theorem State.fetch_bytes {s : State} (h : s.pc.toNat < 4095) :
    s.fetch = .bytes (s.memory.read s.pc.toNat) (s.memory.read (s.pc.toNat + 1)) := by
  have h1 : ¬ 4096 ≤ s.pc.toNat := by omega
  have h2 : ¬ s.pc.toNat = 4095 := by omega
  simp [State.fetch, h1, h2]

/-! ## The keypad -/

/-- The least pressed key, as a search over the keys in ascending order. -/
theorem State.lowestKey_eq_some {s : State} {k : Nat} :
    s.lowestKey = some k ↔ k < 16 ∧ s.keyDown k = true ∧ ∀ j, j < k → s.keyDown j = false := by
  simp only [State.lowestKey, List.find?_range_eq_some]
  simp only [List.mem_range, Bool.not_eq_eq_eq_not, Bool.not_true]
  tauto

theorem State.lowestKey_eq_none {s : State} : s.lowestKey = none ↔ ∀ k, k < 16 → s.keyDown k = false := by
  simp [State.lowestKey]

/-! ## Display -/

theorem Display.pixel_toggle (d : Display) (x px : Fin 64) (y py : Fin 32) :
    (d.toggle x y).pixel px py = ((d.pixel px py) ^^ (decide (px = x ∧ py = y))) := by
  simp only [Display.pixel, Display.toggle, Vector.getElem_set]
  by_cases hy : py = y
  · subst hy
    by_cases hx : px = x
    · subst hx; simp
    · have : ¬ px.val = x.val := fun e => hx (Fin.ext e)
      simp [hx, this]
  · have : ¬ y.val = py.val := fun e => hy (Fin.ext e.symm)
    simp [hy, this]

@[simp] theorem Display.pixel_clear (x : Fin 64) (y : Fin 32) : Display.clear.pixel x y = false := by
  simp [Display.clear, Display.pixel]

/-- Two displays with the same cells are equal. -/
theorem Display.ext_pixel {d e : Display} (h : ∀ x y, d.pixel x y = e.pixel x y) : d = e := by
  apply Vector.ext
  intro y hy
  apply BitVec.eq_of_getLsbD_eq
  intro x hx
  exact h ⟨x, hx⟩ ⟨y, hy⟩

/-! ## Drawing (R151, R152) -/

/-- Pixel (r, c) of the sprite is a 1 and lands on the cell (px, py). -/
def Lands (x0 y0 : Nat) (bytes : Nat → Byte) (r c : Nat) (px : Fin 64) (py : Fin 32) : Prop :=
  (bytes r).getLsbD (7 - c) = true ∧ px.val = (x0 + c) % 64 ∧ py.val = (y0 + r) % 32

/-- One loop step flips the cell it lands on, and marks a hit when that cell was on. -/
theorem Draw.pixel_spec (x0 y0 r c : Nat) (bytes : Nat → Byte) (d : Draw) (px : Fin 64) (py : Fin 32) :
    (Lands x0 y0 bytes r c px py →
      (Draw.pixel x0 y0 r (bytes r) d c).display.pixel px py = !d.display.pixel px py) ∧
    (¬ Lands x0 y0 bytes r c px py →
      (Draw.pixel x0 y0 r (bytes r) d c).display.pixel px py = d.display.pixel px py) := by
  have hx : px = Fin.ofNat 64 (x0 + c) ↔ px.val = (x0 + c) % 64 := by simp [Fin.ext_iff]
  have hy : py = Fin.ofNat 32 (y0 + r) ↔ py.val = (y0 + r) % 32 := by simp [Fin.ext_iff]
  by_cases hb : (bytes r).getLsbD (7 - c) = true
  · simp only [Draw.pixel, hb, if_true, Display.pixel_toggle, Lands, true_and, hx, hy]
    constructor
    · rintro ⟨h1, h2⟩; simp [h1, h2]
    · intro h; simp [h]
  · simp [Draw.pixel, hb, Lands]

theorem Draw.pixel_hit (x0 y0 r c : Nat) (bytes : Nat → Byte) (d : Draw) :
    (Draw.pixel x0 y0 r (bytes r) d c).hit = true ↔
      d.hit = true ∨ ∃ px py, Lands x0 y0 bytes r c px py ∧ d.display.pixel px py = true := by
  by_cases hb : (bytes r).getLsbD (7 - c) = true
  · simp only [Draw.pixel, hb, if_true, Bool.or_eq_true, Lands, true_and]
    refine or_congr Iff.rfl ⟨fun h => ⟨_, _, ⟨?_, ?_⟩, h⟩, ?_⟩
    · simp
    · simp
    · rintro ⟨px, py, ⟨h1, h2⟩, h⟩
      have e1 : px = Fin.ofNat 64 (x0 + c) := by simp [Fin.ext_iff, h1]
      have e2 : py = Fin.ofNat 32 (y0 + r) := by simp [Fin.ext_iff, h2]
      rwa [← e1, ← e2]
  · simp [Draw.pixel, hb, Lands]

/-- The first `m` pixels of row `r`: each cell flips when one of them lands on it, and a hit is a landing on a cell that
was on before the row. -/
theorem Draw.row_spec (x0 y0 r m : Nat) (hm : m ≤ 8) (bytes : Nat → Byte) (d : Draw) :
    let e := (List.range m).foldl (Draw.pixel x0 y0 r (bytes r)) d
    (∀ px py, ((∃ c, c < m ∧ Lands x0 y0 bytes r c px py) → e.display.pixel px py = !d.display.pixel px py) ∧
      ((¬ ∃ c, c < m ∧ Lands x0 y0 bytes r c px py) → e.display.pixel px py = d.display.pixel px py)) ∧
    (e.hit = true ↔ d.hit = true ∨
      ∃ px py, (∃ c, c < m ∧ Lands x0 y0 bytes r c px py) ∧ d.display.pixel px py = true) := by
  induction m with
  | zero => simp
  | succ m ih =>
    obtain ⟨ihd, ihh⟩ := ih (by omega)
    simp only [List.range_succ, List.foldl_append, List.foldl_cons, List.foldl_nil]
    generalize (List.range m).foldl (Draw.pixel x0 y0 r (bytes r)) d = e at ihd ihh ⊢
    -- a later pixel of the row lands on a cell no earlier one landed on
    have fresh : ∀ px py, Lands x0 y0 bytes r m px py → ¬ ∃ c, c < m ∧ Lands x0 y0 bytes r c px py := by
      rintro px py ⟨-, h1, -⟩ ⟨c, hc, -, h2, -⟩
      omega
    constructor
    · intro px py
      obtain ⟨p1, p2⟩ := Draw.pixel_spec x0 y0 r m bytes e px py
      obtain ⟨i1, i2⟩ := ihd px py
      by_cases hl : Lands x0 y0 bytes r m px py
      · refine ⟨fun _ => by rw [p1 hl, i2 (fresh px py hl)], fun h => absurd ⟨m, by omega, hl⟩ h⟩
      · rw [p2 hl]
        constructor
        · rintro ⟨c, hc, h⟩
          have : c ≠ m := fun e => hl (e ▸ h)
          exact i1 ⟨c, by omega, h⟩
        · intro h
          exact i2 fun ⟨c, hc, h'⟩ => h ⟨c, by omega, h'⟩
    · rw [Draw.pixel_hit, ihh]
      constructor
      · rintro ((h | ⟨px, py, ⟨c, hc, h⟩, hp⟩) | ⟨px, py, h, hp⟩)
        · exact .inl h
        · exact .inr ⟨px, py, ⟨c, by omega, h⟩, hp⟩
        · rw [(ihd px py).2 (fresh px py h)] at hp
          exact .inr ⟨px, py, ⟨m, by omega, h⟩, hp⟩
      · rintro (h | ⟨px, py, ⟨c, hc, h⟩, hp⟩)
        · exact .inl (.inl h)
        · by_cases hcm : c = m
          · subst hcm
            exact .inr ⟨px, py, h, by rw [(ihd px py).2 (fresh px py h)]; exact hp⟩
          · exact .inl (.inr ⟨px, py, ⟨c, by omega, h⟩, hp⟩)

/-- A sprite of `n` rows: each cell flips exactly when a 1 pixel lands on it, and a hit is a landing on a cell that was
on before the draw. -/
theorem Draw.sprite_spec (x0 y0 n : Nat) (hn : n ≤ 16) (bytes : Nat → Byte) (d : Display) :
    let e := Draw.sprite x0 y0 n bytes d
    (∀ px py,
      ((∃ r c, r < n ∧ c < 8 ∧ Lands x0 y0 bytes r c px py) → e.display.pixel px py = !d.pixel px py) ∧
      ((¬ ∃ r c, r < n ∧ c < 8 ∧ Lands x0 y0 bytes r c px py) → e.display.pixel px py = d.pixel px py)) ∧
    (e.hit = true ↔
      ∃ px py, (∃ r c, r < n ∧ c < 8 ∧ Lands x0 y0 bytes r c px py) ∧ d.pixel px py = true) := by
  induction n with
  | zero => simp [Draw.sprite]
  | succ n ih =>
    obtain ⟨ihd, ihh⟩ := ih (by omega)
    simp only [Draw.sprite, List.range_succ, List.foldl_append, List.foldl_cons, List.foldl_nil] at ihd ihh ⊢
    generalize (List.range n).foldl (Draw.row x0 y0 bytes) _ = e at ihd ihh ⊢
    obtain ⟨rd, rh⟩ := Draw.row_spec x0 y0 n 8 (Nat.le_refl 8) bytes e
    -- a later row lands on cells no earlier row landed on
    have fresh : ∀ px py, (∃ c, c < 8 ∧ Lands x0 y0 bytes n c px py) →
        ¬ ∃ r c, r < n ∧ c < 8 ∧ Lands x0 y0 bytes r c px py := by
      rintro px py ⟨c, -, -, -, h1⟩ ⟨r, c', hr, -, -, -, h2⟩
      omega
    constructor
    · intro px py
      obtain ⟨p1, p2⟩ := rd px py
      obtain ⟨i1, i2⟩ := ihd px py
      simp only [Draw.row] at p1 p2 ⊢
      by_cases hl : ∃ c, c < 8 ∧ Lands x0 y0 bytes n c px py
      · obtain ⟨c, hc, h⟩ := id hl
        exact ⟨fun _ => by rw [p1 hl, i2 (fresh px py hl)], fun h' => absurd ⟨n, c, by omega, hc, h⟩ h'⟩
      · rw [p2 hl]
        constructor
        · rintro ⟨r, c, hr, hc, h⟩
          have : r ≠ n := fun e => hl ⟨c, hc, e ▸ h⟩
          exact i1 ⟨r, c, by omega, hc, h⟩
        · intro h
          exact i2 fun ⟨r, c, hr, hc, h'⟩ => h ⟨r, c, by omega, hc, h'⟩
    · simp only [Draw.row] at rh ⊢
      rw [rh, ihh]
      constructor
      · rintro (⟨px, py, ⟨r, c, hr, hc, h⟩, hp⟩ | ⟨px, py, ⟨c, hc, h⟩, hp⟩)
        · exact ⟨px, py, ⟨r, c, by omega, hc, h⟩, hp⟩
        · rw [(ihd px py).2 (fresh px py ⟨c, hc, h⟩)] at hp
          exact ⟨px, py, ⟨n, c, by omega, hc, h⟩, hp⟩
      · rintro ⟨px, py, ⟨r, c, hr, hc, h⟩, hp⟩
        by_cases hrn : r = n
        · subst hrn
          exact .inr ⟨px, py, ⟨c, hc, h⟩, by rw [(ihd px py).2 (fresh px py ⟨c, hc, h⟩)]; exact hp⟩
        · exact .inl ⟨px, py, ⟨r, c, by omega, hc, h⟩, hp⟩

/-! ## Inputs between Steps -/

/-- The events between two Steps change the timers, the audio latch and the keypad alone. -/
theorem State.input_eq (s : State) (e : InputEvent) :
    s.input e = { s with
      dt := (s.input e).dt, st := (s.input e).st, playAudio := (s.input e).playAudio,
      keypad := (s.input e).keypad } := by
  cases e <;> rfl

theorem State.foldl_input_eq (s : State) (es : List InputEvent) :
    es.foldl State.input s = { s with
      dt := (es.foldl State.input s).dt, st := (es.foldl State.input s).st,
      playAudio := (es.foldl State.input s).playAudio, keypad := (es.foldl State.input s).keypad } := by
  induction es generalizing s with
  | nil => rfl
  | cons e es ih =>
    rw [List.foldl_cons, ih]
    rw [State.input_eq s e]

/-- Taking the inputs changes those parts and the list of inputs alone. -/
theorem State.takeInputs_eq (s : State) :
    s.takeInputs = { s with
      dt := s.takeInputs.dt, st := s.takeInputs.st, playAudio := s.takeInputs.playAudio,
      keypad := s.takeInputs.keypad, inputs := s.inputs.tail } := by
  unfold State.takeInputs
  cases h : s.inputs with
  | nil => cases s; simp_all
  | cons es rest => simpa using State.foldl_input_eq { s with inputs := rest } es

end Sys2Proof.Machine
end

