-- ==== Sys2Proof/Laws/PerInstr.lean ====
section
/-! SUPPORT. Laws of every instruction as syntax, one lemma a constructor. Family RecognisedEncoding: the word of an
instruction is none of the unrecognised words of 30_encoding.md R79. -/

namespace Sys2Proof.Laws.RecognisedEncoding

/-- The instruction's word is recognised, by the table of R79. -/
def Statement (i : Instr) : Prop := recognisedWord (encodeWord i) = true

/-! ## By format (R74): a word is recognised by its opcode and its fixed low bits, whatever its fields hold -/

theorem ofNat_toNat {n : Nat} (h : n < 65536) : (BitVec.ofNat 16 n).toNat = n := by
  simp only [BitVec.toNat_ofNat]
  omega

theorem formatNNN_recognised {k : Nat} (hk : k = 1 ∨ k = 2 ∨ k = 10 ∨ k = 11) (nnn : BitVec 12) :
    recognisedWord (formatNNN k nnn) = true := by
  have h := nnn.isLt
  have e : (formatNNN k nnn).toNat = k * 4096 + nnn.toNat := ofNat_toNat (by omega)
  have d : (k * 4096 + nnn.toNat) / 4096 = k := by omega
  simp only [recognisedWord, e, d]
  rcases hk with rfl | rfl | rfl | rfl <;> rfl

theorem formatXNN_recognised {k : Nat} (hk : k = 3 ∨ k = 4 ∨ k = 6 ∨ k = 7 ∨ k = 12) (x : Reg) (nn : Byte) :
    recognisedWord (formatXNN k x nn) = true := by
  have h := nn.isLt
  have hx := x.isLt
  have e : (formatXNN k x nn).toNat = k * 4096 + x.val * 256 + nn.toNat := ofNat_toNat (by omega)
  have d : (k * 4096 + x.val * 256 + nn.toNat) / 4096 = k := by omega
  simp only [recognisedWord, e, d]
  rcases hk with rfl | rfl | rfl | rfl | rfl <;> rfl

theorem formatXYN_recognised {k low : Nat}
    (hk : k = 13 ∨ low = 0 ∧ (k = 5 ∨ k = 8 ∨ k = 9) ∨ k = 8 ∧ (low < 8 ∨ low = 14)) (x y : Reg) (hl : low < 16) :
    recognisedWord (formatXYN k x y low) = true := by
  have hx := x.isLt
  have hy := y.isLt
  have e : (formatXYN k x y low).toNat = k * 4096 + x.val * 256 + y.val * 16 + low := ofNat_toNat (by omega)
  have d : (k * 4096 + x.val * 256 + y.val * 16 + low) / 4096 = k := by omega
  have m : (k * 4096 + x.val * 256 + y.val * 16 + low) % 16 = low := by omega
  simp only [recognisedWord, wfFamily59, wfFamily8, e, d, m]
  rcases hk with rfl | ⟨rfl, rfl | rfl | rfl⟩ | ⟨rfl, h | rfl⟩
  · rfl
  · rfl
  · rfl
  · rfl
  · interval_cases low <;> rfl
  · rfl

theorem formatXK_recognised {k low : Nat}
    (hk : k = 14 ∧ low ∈ [0x9E, 0xA1] ∨
      k = 15 ∧ low ∈ [0x07, 0x0A, 0x15, 0x18, 0x1E, 0x29, 0x33, 0x55, 0x65]) (x : Reg) :
    recognisedWord (formatXK k x low) = true := by
  have hx := x.isLt
  have hl : low < 256 := by
    rcases hk with ⟨-, h⟩ | ⟨-, h⟩ <;> simp only [List.mem_cons, List.not_mem_nil, or_false] at h <;> omega
  have e : (formatXK k x low).toNat = k * 4096 + x.val * 256 + low := ofNat_toNat (by omega)
  have d : (k * 4096 + x.val * 256 + low) / 4096 = k := by omega
  have m : (k * 4096 + x.val * 256 + low) % 256 = low := by omega
  simp only [recognisedWord, wfFamilyE, wfFamilyF, e, d, m]
  rcases hk with ⟨rfl, h⟩ | ⟨rfl, h⟩
  · simpa using h
  · simpa using h

/-! ## One lemma a constructor -/

theorem cls : Statement .cls := rfl
theorem ret : Statement .ret := rfl
theorem jp (nnn : BitVec 12) : Statement (.jp nnn) := formatNNN_recognised (by decide) nnn
theorem call (nnn : BitVec 12) : Statement (.call nnn) := formatNNN_recognised (by decide) nnn
theorem seImm (x : Reg) (nn : Byte) : Statement (.seImm x nn) := formatXNN_recognised (by decide) x nn
theorem sneImm (x : Reg) (nn : Byte) : Statement (.sneImm x nn) := formatXNN_recognised (by decide) x nn
theorem seReg (x y : Reg) : Statement (.seReg x y) := formatXYN_recognised (by decide) x y (by decide)
theorem ldImm (x : Reg) (nn : Byte) : Statement (.ldImm x nn) := formatXNN_recognised (by decide) x nn
theorem addImm (x : Reg) (nn : Byte) : Statement (.addImm x nn) := formatXNN_recognised (by decide) x nn
theorem ldReg (x y : Reg) : Statement (.ldReg x y) := formatXYN_recognised (by decide) x y (by decide)
theorem orReg (x y : Reg) : Statement (.orReg x y) := formatXYN_recognised (by decide) x y (by decide)
theorem andReg (x y : Reg) : Statement (.andReg x y) := formatXYN_recognised (by decide) x y (by decide)
theorem xorReg (x y : Reg) : Statement (.xorReg x y) := formatXYN_recognised (by decide) x y (by decide)
theorem addReg (x y : Reg) : Statement (.addReg x y) := formatXYN_recognised (by decide) x y (by decide)
theorem subReg (x y : Reg) : Statement (.subReg x y) := formatXYN_recognised (by decide) x y (by decide)
theorem shrReg (x y : Reg) : Statement (.shrReg x y) := formatXYN_recognised (by decide) x y (by decide)
theorem subnReg (x y : Reg) : Statement (.subnReg x y) := formatXYN_recognised (by decide) x y (by decide)
theorem shlReg (x y : Reg) : Statement (.shlReg x y) := formatXYN_recognised (by decide) x y (by decide)
theorem sneReg (x y : Reg) : Statement (.sneReg x y) := formatXYN_recognised (by decide) x y (by decide)
theorem ldI (nnn : BitVec 12) : Statement (.ldI nnn) := formatNNN_recognised (by decide) nnn
theorem jpV0 (nnn : BitVec 12) : Statement (.jpV0 nnn) := formatNNN_recognised (by decide) nnn
theorem rnd (x : Reg) (nn : Byte) : Statement (.rnd x nn) := formatXNN_recognised (by decide) x nn
theorem drw (x y : Reg) (n : BitVec 4) : Statement (.drw x y n) := formatXYN_recognised (.inl rfl) x y n.isLt
theorem skp (x : Reg) : Statement (.skp x) := formatXK_recognised (by decide) x
theorem sknp (x : Reg) : Statement (.sknp x) := formatXK_recognised (by decide) x
theorem ldVxDt (x : Reg) : Statement (.ldVxDt x) := formatXK_recognised (by decide) x
theorem ldVxK (x : Reg) : Statement (.ldVxK x) := formatXK_recognised (by decide) x
theorem ldDtVx (x : Reg) : Statement (.ldDtVx x) := formatXK_recognised (by decide) x
theorem ldStVx (x : Reg) : Statement (.ldStVx x) := formatXK_recognised (by decide) x
theorem addI (x : Reg) : Statement (.addI x) := formatXK_recognised (by decide) x
theorem ldF (x : Reg) : Statement (.ldF x) := formatXK_recognised (by decide) x
theorem ldB (x : Reg) : Statement (.ldB x) := formatXK_recognised (by decide) x
theorem storeRegs (x : Reg) : Statement (.storeRegs x) := formatXK_recognised (by decide) x
theorem loadRegs (x : Reg) : Statement (.loadRegs x) := formatXK_recognised (by decide) x

end Sys2Proof.Laws.RecognisedEncoding
end

