-- ==== Sys2Proof/Laws/Step.lean ====
section
/-! SUPPORT. What the Step event and the model's step can do, said once, and the laws of the events that are not a
Step. -/

namespace Sys2Proof.Machine

/-! ## The Step event -/

/-- Where the fetch finds two bytes, Step is the execution of the decoded word, or UnknownOpcode (R70, R171). -/
theorem stepWith_of_bytes (rnd : Byte) (s : State) (h : s.pc.toNat < 4095) :
    stepWith rnd s =
      match decodeWord s.wordAtPc with
      | .ok i => exec i { s with rnd := rnd, pc := s.pc + 2 }
      | .error _ => .next (({ s with rnd := rnd, pc := s.pc + 2 } : State).raise (.unknownOpcode s.wordAtPc s.pc)) := by
  have hf := State.fetch_bytes (s := { s with rnd := rnd }) h
  have hw : wordOf (s.memory.read s.pc.toNat) (s.memory.read (s.pc.toNat + 1)) = s.wordAtPc := rfl
  simp only [stepWith, hf, decode, hw]
  cases decodeWord s.wordAtPc <;> rfl

/-- Every way a Step answers a next state: halted, the fetch fault, a decoded instruction, an unknown word. -/
theorem stepWith_cases {rnd : Byte} {s t : State} (h : stepWith rnd s = .next t) :
    (4096 ≤ s.pc.toNat ∧ t = ({ s with rnd := rnd } : State).finishHalted) ∨
    (s.pc.toNat = 4095 ∧ t = ({ s with rnd := rnd } : State).raise (.addressFault 4096)) ∨
    (s.pc.toNat < 4095 ∧ ∃ i, decodeWord s.wordAtPc = .ok i ∧
      exec i { s with rnd := rnd, pc := s.pc + 2 } = .next t) ∨
    (s.pc.toNat < 4095 ∧ ∃ e, decodeWord s.wordAtPc = .error e ∧
      t = ({ s with rnd := rnd, pc := s.pc + 2 } : State).raise (.unknownOpcode s.wordAtPc s.pc)) := by
  by_cases hhalt : 4096 ≤ s.pc.toNat
  · have hf := State.fetch_halted (s := { s with rnd := rnd }) hhalt
    simp only [stepWith, hf] at h
    injection h with h
    exact .inl ⟨hhalt, h.symm⟩
  by_cases hend : s.pc.toNat = 4095
  · have hf := State.fetch_beyond (s := { s with rnd := rnd }) hend
    simp only [stepWith, hf] at h
    injection h with h
    exact .inr (.inl ⟨hend, h.symm⟩)
  have hlt : s.pc.toNat < 4095 := by omega
  rw [stepWith_of_bytes rnd s hlt] at h
  cases hd : decodeWord s.wordAtPc with
  | ok i => rw [hd] at h; exact .inr (.inr (.inl ⟨hlt, i, rfl, h⟩))
  | error e =>
    rw [hd] at h
    injection h with h
    exact .inr (.inr (.inr ⟨hlt, e, rfl, h.symm⟩))

/-! ## The model's step and its runs -/

/-- Taking the inputs leaves pc, memory and the record of statuses. -/
theorem State.takeInputs_kept (s : State) :
    s.takeInputs.pc = s.pc ∧ s.takeInputs.memory = s.memory ∧ s.takeInputs.firstNonOk = s.firstNonOk := by
  rw [State.takeInputs_eq]
  exact ⟨rfl, rfl, rfl⟩

/-- A run of n + 1 steps is a step and a run of n. -/
theorem run_succ_of_step {n : Nat} {s t : State} (h : step s = .next t) :
    Sys2Proof.core.run (n + 1) s = Sys2Proof.core.run n t := by
  have general : ∀ (M : Host.Core) (a b : M.State), M.step a = .next b → M.run (n + 1) a = M.run n b := by
    intro M a b hab
    rw [Host.Core.run, hab]
  exact general Sys2Proof.core s t h

/-! ## What the host's events do to a run -/

/-- Events write the four latches from the four latches alone. -/
theorem foldl_input_latches (es : List InputEvent) {s t : State}
    (h : t.dt = s.dt ∧ t.st = s.st ∧ t.playAudio = s.playAudio ∧ t.keypad = s.keypad) :
    (es.foldl State.input t).dt = (es.foldl State.input s).dt ∧
    (es.foldl State.input t).st = (es.foldl State.input s).st ∧
    (es.foldl State.input t).playAudio = (es.foldl State.input s).playAudio ∧
    (es.foldl State.input t).keypad = (es.foldl State.input s).keypad := by
  induction es generalizing s t with
  | nil => exact h
  | cons e es ih =>
    refine ih ?_
    obtain ⟨hdt, hst, ha, hk⟩ := h
    cases e <;> simp_all [State.input, State.setKeys, State.ackAudio, State.tick]

theorem HostActed.zero (s : State) : HostActed 0 s s := by simp [HostActed]

/-- A step that writes none of the latches itself leaves what its events leave. -/
theorem HostActed.one {s t : State} (hdt : t.dt = s.takeInputs.dt) (hst : t.st = s.takeInputs.st)
    (ha : t.playAudio = s.takeInputs.playAudio) (hk : t.keypad = s.takeInputs.keypad)
    (hi : t.inputs = s.takeInputs.inputs) : HostActed 1 s t := by
  have htail : s.takeInputs.inputs = s.inputs.tail := by rw [State.takeInputs_eq]
  cases hs : s.inputs with
  | nil => simp_all [HostActed, State.takeInputs]
  | cons es rest =>
    have htake : s.takeInputs = es.foldl State.input { s with inputs := rest } := by simp [State.takeInputs, hs]
    obtain ⟨h1, h2, h3, h4⟩ := foldl_input_latches es (s := s) (t := { s with inputs := rest }) ⟨rfl, rfl, rfl, rfl⟩
    rw [← htake] at h1 h2 h3 h4
    simp [HostActed, hs, hdt.trans h1, hst.trans h2, ha.trans h3, hk.trans h4, hi.trans htail]

/-- One step and then n are n + 1 steps. -/
theorem HostActed.step {n : Nat} {s t u : State} (hst : HostActed 1 s t) (htu : HostActed n t u) :
    HostActed (n + 1) s u := by
  obtain ⟨a1, a2, a3, a4, a5⟩ := hst
  obtain ⟨b1, b2, b3, b4, b5⟩ := htu
  cases hs : s.inputs with
  | nil => simp_all [HostActed]
  | cons es rest =>
    simp only [hs, List.take_succ_cons, List.take_zero, List.flatten_cons, List.flatten_nil, List.append_nil,
      List.drop_succ_cons, List.drop_zero] at a1 a2 a3 a4 a5
    obtain ⟨h1, h2, h3, h4⟩ := foldl_input_latches (rest.take n).flatten ⟨a1, a2, a3, a4⟩
    rw [a5] at b1 b2 b3 b4 b5
    simp [HostActed, hs, List.foldl_append, b1.trans h1, b2.trans h2, b3.trans h3, b4.trans h4, b5]

/-! ## Reset and Load -/

/-- After Reset the font lies at 0x000 to 0x04F (R200). -/
theorem fontMemory_read_font (font : Vector Byte 80) (a : Fin 80) : (fontMemory font).read a.val = font[a.val] := by
  have h := Memory.read_writeBlock_inside [] 0 a.val font.toList (by simp)
  rw [Nat.zero_add] at h
  rw [fontMemory, h]
  simp

/-- After Reset every byte above the font is 0 (R200). -/
theorem fontMemory_read_above (font : Vector Byte 80) (a : Nat) (h : 80 ≤ a) : (fontMemory font).read a = 0 := by
  rw [fontMemory, Memory.read_writeBlock_outside _ _ _ _ (by simp; omega)]
  simp [Memory.read, resetByte]
  omega

/-- Memory after Reset is in its canonical form. -/
theorem fontMemory_wf (font : Vector Byte 80) : (fontMemory font).wf :=
  Memory.wf_writeBlock Memory.wf_nil _ _ (by simp)

/-- A Load that answers Ok stored the block at 0x200 (R202). -/
theorem State.load_eq_ok {s t : State} {bytes : List Byte} :
    s.load bytes = .ok t ↔
      0x200 + bytes.length ≤ 4096 ∧ t = s.setMemory (s.memory.writeBlock 0x200 bytes) := by
  by_cases h : 0x200 + bytes.length ≤ 4096 <;> simp [State.load, programFits, h, eq_comm]

end Sys2Proof.Machine
end

