-- ==== Sys2Proof/Tests/Slice0.lean ====
section
/-! SUPPORT. The model's own tests. Expected values come from the spec: the encodings of 30_encoding.md R78, the refused
words of R79, the vectors of 95_test_vectors.md (named in each comment). The second half shows, for each statement with
hypotheses, concrete states and operands that meet them, at the boundary values of each clause. -/

namespace Sys2Proof.Tests

open Sys2Proof Sys2Proof.Machine

/-! ## Helpers -/

/-- Right after Reset with the opcode word at 0x200: the start of the vectors of 95_test_vectors.md. -/
def placed (w : Nat) : State := State.reset.withFetchWord 16 w

/-- The state with bytes stored from an address on. -/
def bytesAt (s : State) (a : Nat) (bs : List Byte) : State := s.setMemory (s.memory.writeBlock a bs)

/-- The state after one Step with the given input byte. -/
def after (rnd : Byte) (s : State) : Option State :=
  match stepWith rnd s with
  | .next t => some t
  | .fault _ => none
  | .refused _ => none

/-- A display with one row given and the others off. -/
def oneRow (y : Nat) (row : BitVec 64) (h : y < 32 := by decide) : Display := Display.clear.set y row

/-! ## Well-formedness (R79, R202): an ill-formed term for each check -/

theorem test_refused_family0 : wfFamily0 0x01E0 = false ∧ recognisedWord 0x01E0 = false := by decide
theorem test_refused_family5 : wfFamily59 0x5121 = false ∧ recognisedWord 0x5121 = false := by decide
theorem test_refused_family9 : wfFamily59 0x912F = false ∧ recognisedWord 0x912F = false := by decide
theorem test_refused_family8 : wfFamily8 0x8128 = false ∧ recognisedWord 0x812F = false := by decide
theorem test_refused_familyE : wfFamilyE 0xE19F = false ∧ recognisedWord 0xE1A2 = false := by decide
theorem test_refused_familyF : wfFamilyF 0xF100 = false ∧ recognisedWord 0xF175 = false := by decide
theorem test_refused_program : programFits (List.replicate 3585 0) = false := by
  rw [programFits, List.length_replicate]; decide
theorem test_accepted : recognisedWord 0x00EE = true ∧ recognisedWord 0x8FFE = true ∧
    programFits (List.replicate 3584 0) = true := 
  ⟨by decide, by decide, by rw [programFits, List.length_replicate]; decide⟩

/-! ## Decoding: every row of R78, its word written out bit by bit -/

theorem test_decode_flow :
    IsWordOf 0b0000_0000_1110_0000 .cls ∧ IsWordOf 0b0000_0000_1110_1110 .ret ∧
    IsWordOf 0b0001_1010_1011_1100 (.jp 0xABC) ∧ IsWordOf 0b0010_0010_0001_0000 (.call 0x210) ∧
    IsWordOf 0b0011_0011_0100_0010 (.seImm 3 0x42) ∧ IsWordOf 0b0100_0011_0100_0010 (.sneImm 3 0x42) ∧
    IsWordOf 0b0101_0001_0010_0000 (.seReg 1 2) ∧ IsWordOf 0b1001_0001_0010_0000 (.sneReg 1 2) ∧
    IsWordOf 0b1011_0010_1111_0000 (.jpV0 0x2F0) := by decide

theorem test_decode_alu :
    IsWordOf 0b0110_0101_1010_1011 (.ldImm 5 0xAB) ∧ IsWordOf 0b0111_0000_0000_0010 (.addImm 0 0x02) ∧
    IsWordOf 0b1000_0001_0010_0000 (.ldReg 1 2) ∧ IsWordOf 0b1000_0001_0010_0001 (.orReg 1 2) ∧
    IsWordOf 0b1000_0001_0010_0010 (.andReg 1 2) ∧ IsWordOf 0b1000_0001_0010_0011 (.xorReg 1 2) ∧
    IsWordOf 0b1000_0001_0010_0100 (.addReg 1 2) ∧ IsWordOf 0b1000_0001_0010_0101 (.subReg 1 2) ∧
    IsWordOf 0b1000_0001_0010_0110 (.shrReg 1 2) ∧ IsWordOf 0b1000_0001_0010_0111 (.subnReg 1 2) ∧
    IsWordOf 0b1000_0001_0010_1110 (.shlReg 1 2) ∧ IsWordOf 0b1100_0011_0000_1111 (.rnd 3 0x0F) := by decide

theorem test_decode_memory_display :
    IsWordOf 0b1010_0011_0000_0000 (.ldI 0x300) ∧ IsWordOf 0b1111_0010_0001_1110 (.addI 2) ∧
    IsWordOf 0b1111_0000_0010_1001 (.ldF 0) ∧ IsWordOf 0b1111_0000_0011_0011 (.ldB 0) ∧
    IsWordOf 0b1111_1111_0101_0101 (.storeRegs 15) ∧ IsWordOf 0b1111_0100_0110_0101 (.loadRegs 4) ∧
    IsWordOf 0b1101_0000_0001_0101 (.drw 0 1 5) := by decide

theorem test_decode_timer_key :
    IsWordOf 0b1110_0010_1001_1110 (.skp 2) ∧ IsWordOf 0b1110_0010_1010_0001 (.sknp 2) ∧
    IsWordOf 0b1111_0101_0000_0111 (.ldVxDt 5) ∧ IsWordOf 0b1111_0010_0000_1010 (.ldVxK 2) ∧
    IsWordOf 0b1111_0100_0001_0101 (.ldDtVx 4) ∧ IsWordOf 0b1111_0001_0001_1000 (.ldStVx 1) := by decide

/-- Vectors X7, X8 and R74: refused by name, and a lone byte is no instruction. -/
theorem test_decode_refuses :
    decode [0x00, 0xE1] = .error .family0 ∧ decode [0x0A, 0xEE] = .error .family0 ∧
    decode [0x51, 0x21] = .error .family5 ∧ decode [0x81, 0x28] = .error .family8 ∧
    decode [0x91, 0x21] = .error .family9 ∧ decode [0xE1, 0x9F] = .error .familyE ∧
    decode [0xF1, 0x85] = .error .familyF ∧ decode [0x12] = .error .truncated ∧
    decode [] = .error .truncated := by decide

theorem test_decodeTableWord : decodeTableWord 16 0x8124 = some (.addReg 1 2) ∧ decodeTableWord 16 0x5121 = none := by
  decide

theorem test_encodeBytes : encodeBytes (.addReg 1 2) = [0x81, 0x24] ∧ encodeBytes (.jp 0xABC) = [0x1A, 0xBC] := by decide

/-- The table of R78 has 34 rows, and no two select one word: of two rows, the matches differ where both masks ask. -/
theorem test_opcodeMap_no_overlap :
    opcodeMap.length = 34 ∧
    opcodeMap.Pairwise (fun p q => (p.2 &&& (p.1 &&& q.1)) ≠ (q.2 &&& (p.1 &&& q.1))) := by decide

/-! ## The Step event (vectors X1 to X6) -/

theorem test_fetch_big_endian : (after 0 (bytesAt State.reset 0x200 [0x12, 0x34])).map (·.pc) = some 0x234 := by
  decide

theorem test_fetch_odd_pc :
    (after 0 (bytesAt (State.reset.setPc 0x201) 0x201 [0x12, 0x34])).map (·.pc) = some 0x234 := by decide

theorem test_fetch_fault : (after 0 (State.reset.setPc 0xFFF)).map (fun t => (t.pc, t.out)) =
    some (0xFFF, StepOut.quiet (.addressFault 4096)) := by decide

theorem test_last_word_then_halted : (after 0 (State.reset.setPc 0xFFE)).map (fun t => (t.pc, t.out.status)) =
    some (0x1000, .unknownOpcode 0x0000 0xFFE) := by decide

theorem test_halted : (after 0 (State.reset.setPc 0x1000)).map (fun t => (t.pc, t.out.status, t.out.halted)) =
    some (0x1000, .ok, true) := by decide

theorem test_unknown_opcode : (after 0 ((placed 0x5121).setReg 15 9)).map (fun t => (t.pc, t.reg 15, t.out.status)) =
    some (0x202, 9, .unknownOpcode 0x5121 0x200) := by decide

/-! ## Flow (vectors F1 to F12) -/

theorem test_jp : (after 0 (placed 0x1ABC)).map (fun t => (t.pc, t.sp)) = some (0xABC, 0) := by decide

theorem test_jpV0 : (after 0 ((placed 0xBFFF).setReg 0 0xFF)).map (·.pc) = some 0x10FE := by decide

theorem test_call : (after 0 (placed 0x2300)).map (fun t => (t.pc, t.sp, t.stack[0])) = some (0x300, 1, 0x202) := by
  decide

theorem test_call_overflow :
    (after 0 { placed 0x2300 with sp := 16 }).map (fun t => (t.pc, t.sp, t.stack[15], t.out.status)) =
      some (0x202, 16, 0, .stackOverflow 0x200) := by decide

theorem test_ret :
    (after 0 { placed 0x00EE with sp := 1, stack := (Vector.replicate 16 0).set 0 0x202 }).map
      (fun t => (t.pc, t.sp, t.stack[0])) = some (0x202, 0, 0x202) := by decide

theorem test_ret_underflow : (after 0 (placed 0x00EE)).map (fun t => (t.pc, t.sp, t.out.status)) =
    some (0x202, 0, .stackUnderflow 0x200) := by decide

theorem test_seImm : (after 0 ((placed 0x3342).setReg 3 0x42)).map (·.pc) = some 0x204 ∧
    (after 0 ((placed 0x3343).setReg 3 0x42)).map (·.pc) = some 0x202 := by decide

theorem test_sneImm : (after 0 ((placed 0x4342).setReg 3 0x42)).map (·.pc) = some 0x202 ∧
    (after 0 ((placed 0x4343).setReg 3 0x42)).map (·.pc) = some 0x204 := by decide

theorem test_seReg : (after 0 (((placed 0x5120).setReg 1 7).setReg 2 7)).map (·.pc) = some 0x204 ∧
    (after 0 (((placed 0x5120).setReg 1 7).setReg 2 8)).map (·.pc) = some 0x202 := by decide

theorem test_sneReg : (after 0 (((placed 0x9120).setReg 1 7).setReg 2 7)).map (·.pc) = some 0x202 ∧
    (after 0 (((placed 0x9120).setReg 1 7).setReg 2 8)).map (·.pc) = some 0x204 := by decide

/-! ## ALU (vectors A1 to A30); the pair is the destination and VF -/

/-- V1, V2, VF at the start, and V1, VF after the Step of a word that names V1 and V2. -/
def alu (w : Nat) (v1 v2 vf : Byte) : Option (Byte × Byte) :=
  (after 0 ((((placed w).setReg 1 v1).setReg 2 v2).setReg 15 vf)).map (fun t => (t.reg 1, t.reg 15))

/-- The same with SHIFT_SRC_VY false. -/
def aluInPlace (w : Nat) (v1 v2 vf : Byte) : Option (Byte × Byte) :=
  let s := (((placed w).setReg 1 v1).setReg 2 v2).setReg 15 vf
  (after 0 { s with config := { s.config with shiftSrcVY := false } }).map (fun t => (t.reg 1, t.reg 15))

theorem test_ldImm : (after 0 (placed 0x6F77)).map (fun t => (t.reg 15, t.reg 0)) = some (0x77, 0) := by decide
theorem test_addImm : (after 0 (((placed 0x7002).setReg 0 0xFF).setReg 15 7)).map (fun t => (t.reg 0, t.reg 15)) =
    some (0x01, 7) := by decide
theorem test_ldReg : alu 0x8120 0x0F 0xF0 9 = some (0xF0, 9) := by decide
theorem test_orReg : alu 0x8121 0xF0 0x0F 9 = some (0xFF, 9) := by decide
theorem test_andReg : alu 0x8122 0xF0 0x3C 9 = some (0x30, 9) := by decide
theorem test_xorReg : alu 0x8123 0xF0 0x3C 9 = some (0xCC, 9) := by decide
theorem test_addReg_carry : alu 0x8124 0xFF 0x01 9 = some (0x00, 1) ∧ alu 0x8124 0x01 0x01 9 = some (0x02, 0) := by decide
theorem test_addReg_flag_operand : alu 0x8F14 0x20 0 0xF0 = some (0x20, 1) ∧ alu 0x81F4 0xFF 0 1 = some (0x00, 1) := by
  decide
theorem test_subReg : alu 0x8125 5 3 9 = some (2, 1) ∧ alu 0x8125 3 5 9 = some (0xFE, 0) := by decide
theorem test_subReg_equal : alu 0x8125 7 7 9 = some (0, 1) := by decide
theorem test_subnReg : alu 0x8127 3 5 9 = some (2, 1) ∧ alu 0x8127 5 3 9 = some (0xFE, 0) := by decide
theorem test_shrReg : alu 0x8126 0xAA 0x05 9 = some (0x02, 1) ∧ alu 0x8FF6 0 0 3 = some (0, 1) := by decide
theorem test_shrReg_in_place : aluInPlace 0x8126 0xAA 0x05 9 = some (0x55, 0) := by decide
theorem test_shlReg : alu 0x812E 0x11 0x81 9 = some (0x02, 1) ∧ alu 0x812E 0x11 0xFF 9 = some (0xFE, 1) := by decide
theorem test_shlReg_in_place : aluInPlace 0x812E 0x40 0xFF 9 = some (0x80, 0) := by decide
theorem test_rnd : (after 0xB7 (placed 0xC30F)).map (fun t => (t.reg 3, t.reg 15)) = some (0x07, 0) := by decide

/-! ## Index and memory (vectors M1 to M15) -/

theorem test_ldI : (after 0 (placed 0xAFFF)).map (·.i) = some 0x0FFF := by decide

theorem test_addI : (after 0 (((placed 0xF21E).setI 0x0FFE).setReg 2 5)).map (fun t => (t.i, t.reg 15)) = some (0x1003, 0) ∧
    (after 0 (((placed 0xF21E).setI 0xFFFF).setReg 2 2)).map (·.i) = some 0x0001 := by decide

theorem test_ldF : (after 0 ((placed 0xF029).setReg 0 0x0A)).map (·.i) = some 0x0032 ∧
    (after 0 ((placed 0xF029).setReg 0 0xFF)).map (·.i) = some 0x04FB := by decide

/-- FX33 at an index, and what then lies at that address and the two after it, with the status. -/
def bcd (i : Word) (v : Byte) : Option (Byte × Byte × Byte × Status) :=
  (after 0 (((placed 0xF033).setI i).setReg 0 v)).map
    (fun t => (t.element 0, t.element 1, t.element 2, t.out.status))

theorem test_ldB : bcd 0x300 156 = some (1, 5, 6, .ok) ∧ bcd 0x050 255 = some (2, 5, 5, .ok) ∧
    bcd 0xFFD 255 = some (2, 5, 5, .ok) := by decide

theorem test_ldB_fault : bcd 0x04E 255 = some (0x80, 0x80, 0x00, .addressFault 0x04E) ∧
    bcd 0xFFE 255 = some (0, 0, 0, .addressFault 0x1000) := by decide

theorem test_storeRegs : (after 0 ((((placed 0xFF55).setI 0xFF0).setReg 0 1).setReg 15 0xAB)).map
    (fun t => (t.memory.read 0xFF0, t.memory.read 0xFFF, t.i, t.out.status)) = some (1, 0xAB, 0xFF0, .ok) := by decide

theorem test_storeRegs_fault :
    (after 0 ((((placed 0xFF55).setI 0xFF1).setReg 0 1).setReg 15 0xAB)).map
      (fun t => (t.memory.read 0xFF1, t.out.status)) = some (0, .addressFault 0x1000) ∧
    (after 0 ((((placed 0xF155).setI 0x04F).setReg 0 1).setReg 1 2)).map
      (fun t => (t.memory.read 0x050, t.out.status)) = some (0, .addressFault 0x04F) := by decide

theorem test_loadRegs : (after 0 ((placed 0xF465).setReg 5 0x55)).map
    (fun t => (t.reg 0, t.reg 1, t.reg 4, t.reg 5, t.i)) = some (0xF0, 0x90, 0xF0, 0x55, 0) := by decide

theorem test_loadRegs_fault :
    (after 0 (((bytesAt (placed 0xF165) 0xFFF [0x77]).setI 0xFFF).setReg 0 9)).map
      (fun t => (t.reg 0, t.out.status)) = some (9, .addressFault 0x1000) := by decide

/-! ## Display (vectors G1 to G10); bit x of a row is column x -/

theorem test_cls : (after 0 (((placed 0x00E0).setDisplay (oneRow 5 0x21)).setReg 15 0x5A)).map
    (fun t => (t.display, t.reg 15, t.out.displayDirty)) = some (Display.clear, 0x5A, true) := by decide

/-- Vector G2: columns 60 to 63 wrap to 0 to 3. -/
theorem test_drw_wraps : (after 0 ((bytesAt ((placed 0xD011).setI 0x300) 0x300 [0xFF]).setReg 0 60)).map
    (fun t => (t.display, t.reg 15, t.out.displayDirty)) = some (oneRow 0 0xF00000000000000F, 0, true) := by decide

/-- Vector G4, bit order: bit 7 is the leftmost column, so only (0, 0) goes off. -/
theorem test_drw_collision :
    (after 0 ((bytesAt ((placed 0xD011).setI 0x300) 0x300 [0x80]).setDisplay (oneRow 0 0x3))).map
      (fun t => (t.display, t.reg 15)) = some (oneRow 0 0x2, 1) := by decide

/-! ## Timers and keys (vectors T1 to T12) -/

theorem test_skp : (after 0 (((placed 0xE09E).setReg 0 0x0B).setKeys 0x0800)).map (·.pc) = some 0x204 ∧
    (after 0 (((placed 0xE09E).setReg 0 0x0B).setKeys 0xF7FF)).map (·.pc) = some 0x202 := by decide

theorem test_sknp : (after 0 (((placed 0xE0A1).setReg 0 0x0B).setKeys 0x0800)).map (·.pc) = some 0x202 ∧
    (after 0 (((placed 0xE0A1).setReg 0 0x0B).setKeys 0xF7FF)).map (·.pc) = some 0x204 := by decide

theorem test_key_index_fault : (after 0 (((placed 0xE0A1).setReg 0 0x10).setKeys 0xFFFF)).map
    (fun t => (t.pc, t.out.status)) = some (0x202, .keyIndexFault 16) := by decide

theorem test_ldVxK : (after 0 ((placed 0xF20A).setKeys 0x0880)).map (fun t => (t.reg 2, t.pc, t.out.keyWait)) =
    some (7, 0x202, false) := by decide

theorem test_ldVxK_waits : (after 0 ((placed 0xF20A).setReg 2 9)).map (fun t => (t.reg 2, t.pc, t.out)) =
    some (9, 0x200, { status := .ok, halted := false, displayDirty := false, keyWait := true }) := by decide

theorem test_ldDtVx : (after 0 ((placed 0xF415).setReg 4 0x3C)).map (fun t => (t.dt, t.st)) = some (0x3C, 0) := by decide
theorem test_ldVxDt : (after 0 ((placed 0xF507).setDt 0x3C)).map (·.reg 5) = some 0x3C := by decide
theorem test_ldStVx : (after 0 ((placed 0xF418).setReg 4 2)).map (fun t => (t.st, t.dt, t.playAudio)) =
    some (2, 0, false) := by decide

theorem test_tick_floor : ((State.reset).tick.dt, (State.reset).tick.st, (State.reset).tick.playAudio) = (0, 0, false) := by
  decide

theorem test_tick_raises_audio : ((State.reset.setSt 1).tick.st, (State.reset.setSt 1).tick.playAudio,
    (State.reset.setSt 1).tick.ackAudio.tick.playAudio) = (0, true, false) := by decide

/-! ## Reset, Load and the boot order (vectors B1 to B4, R203) -/

/-- With the spec's defaults, the reset of any parameters is State.reset. -/
theorem test_resetWith_default : State.resetWith defaultConfig = State.reset := by decide

theorem test_load : (match State.reset.load [0x12, 0x00] with
    | .ok t => some (t.memory.read 0x200, t.memory.read 0x201, t.pc)
    | .romTooLarge => none) = some (0x12, 0x00, 0x200) := by decide

theorem test_boot_order :
    (((Session.powerOn defaultConfig).applyAll [.reset, .load [0x22, 0x00], .step 0, .input .tick]).map
      fun p => (p.phase, p.state.pc, p.state.sp)) = some (.running, 0x200, 1) ∧
    ((Session.powerOn defaultConfig).apply (.step 0)).isNone = true ∧
    ((Session.powerOn defaultConfig).applyAll [.reset, .input .tick]).isNone = true := by decide

/-! ## Witnesses: states and operands that meet the hypotheses of the statements

Each theorem is named after its statement; where a statement has several clauses, there is a conjunct for each. -/

/-- Halted at 4096, the fetch fault at 4095, and at 4094 a word that decodes and one that does not. -/
theorem witness_StepEventFollowsTheCycle :
    4096 ≤ (State.reset.setPc 0x1000).pc.toNat ∧ (State.reset.setPc 0xFFF).pc.toNat = 4095 ∧
    (bytesAt (State.reset.setPc 0xFFE) 0xFFE [0x12, 0x00]).pc.toNat < 4095 ∧
    decodeWord (bytesAt (State.reset.setPc 0xFFE) 0xFFE [0x12, 0x00]).wordAtPc = .ok (.jp 0x200) ∧
    (State.reset.setPc 0xFFE).pc.toNat < 4095 ∧
    decodeWord (State.reset.setPc 0xFFE).wordAtPc = .error .family0 := by decide

/-- A Step with two events before it, and one with none. -/
def twoInputs : State := { placed 0x1200 with inputs := [[.setKeys 0x0080, .tick], []] }

theorem witness_StepRunsTheDecodedInstruction :
    twoInputs.takeInputs.pc.toNat < 4095 ∧ decodeWord twoInputs.takeInputs.wordAtPc = .ok (.jp 0x200) ∧
    twoInputs.inputs = [.setKeys 0x0080, .tick] :: [[]] ∧ twoInputs.takeInputs.keypad = 0x0080 ∧
    (placed 0x1200).inputs = [] ∧ (placed 0x1200).takeInputs = placed 0x1200 := by decide

theorem witness_DecodeInvertsEncode : Instr.wf (.drw 15 0 15) = true := by decide
theorem witness_EncodeInvertsDecode : decodeWord 0xFF65 = .ok (.loadRegs 15) := by decide
theorem witness_DecodeFollowsTheOpcodeMap :
    opcodeMap[0]? = some (0xFFFF, 0x00E0) ∧ opcodeMap[33]? = some (0xF0FF, 0xF065) := by decide

theorem witness_UnrecognisedWordsAreTheTablesOnes :
    recognisedWord 0x0FFF = false ∧ recognisedWord 0x5FFF = false ∧ recognisedWord 0x8FFF = false ∧
    recognisedWord 0x9001 = false ∧ recognisedWord 0xE000 = false ∧ recognisedWord 0xFFFF = false := by decide

/-- One and sixteen entries in use, and none. -/
theorem witness_ReturnPopsTheStack :
    ({ State.reset with sp := 1 } : State).sp.val = (0 : Fin 16).val + 1 ∧
    ({ State.reset with sp := 16 } : State).sp.val = (15 : Fin 16).val + 1 ∧ State.reset.sp.val = 0 := by decide

/-- No entry and fifteen in use, and all sixteen. -/
theorem witness_CallPushesTheReturnAddress :
    State.reset.sp.val = (0 : Fin 16).val ∧ ({ State.reset with sp := 15 } : State).sp.val = (15 : Fin 16).val ∧
    ({ State.reset with sp := 16 } : State).sp.val = 16 := by decide

theorem witness_SkipsComparingRegisters : (1 : Fin 16) ≠ 0 ∧ (15 : Fin 16) ≠ 0 := by decide

/-- A destination that is not VF, and both sources of a shift. -/
theorem witness_flag_writers : (14 : Reg) ≠ flagReg ∧
    (0x81 : Byte) = (if State.reset.config.shiftSrcVY = true then (State.reset.setReg 2 0x81).reg 2
      else (State.reset.setReg 2 0x81).reg 1) ∧
    (0x40 : Byte) = (if false = true then (State.reset.setReg 1 0x40).reg 2 else (State.reset.setReg 1 0x40).reg 1) := by
  decide

/-- The first and last place three bytes may be written at, and the first failing address below and above. -/
theorem witness_StoreDecimalDigits :
    (∀ k, k < 3 → WriteOk ((State.reset.setI 0x050).effective k)) ∧
    (∀ k, k < 3 → WriteOk ((State.reset.setI 0xFFD).effective k)) ∧
    FirstFailing WriteOk (State.reset.setI 0x04F) 3 0x04F ∧
    FirstFailing WriteOk (State.reset.setI 0xFFE) 3 0x1000 := by
  refine ⟨?_, ?_, ⟨0, ?_⟩, ⟨2, ?_⟩⟩ <;> simp [WriteOk, State.effective, State.reset] <;> omega

/-- Sixteen registers at 0xFF0 fit and at 0xFF1 do not; one at 0x04F does not. -/
theorem witness_StoreRegisterBlock :
    (∀ k, k < (15 : Reg).val + 1 → WriteOk ((State.reset.setI 0xFF0).effective k)) ∧
    FirstFailing WriteOk (State.reset.setI 0xFF1) ((15 : Reg).val + 1) 0x1000 ∧
    FirstFailing WriteOk (State.reset.setI 0x04F) ((0 : Reg).val + 1) 0x04F := by
  refine ⟨?_, ⟨15, ?_⟩, ⟨0, ?_⟩⟩ <;> simp [WriteOk, State.effective, State.reset] <;> omega

/-- One register at 0xFFF fits, and the font may be read; two at 0xFFF, and one at 0x1000, do not fit. -/
theorem witness_LoadRegisterBlock :
    (∀ k, k < (0 : Reg).val + 1 → ReadOk ((State.reset.setI 0xFFF).effective k)) ∧
    (∀ k, k < (15 : Reg).val + 1 → ReadOk (State.reset.effective k)) ∧
    FirstFailing ReadOk (State.reset.setI 0xFFF) ((1 : Reg).val + 1) 0x1000 ∧
    FirstFailing ReadOk (State.reset.setI 0x1000) ((0 : Reg).val + 1) 0x1000 := by
  refine ⟨?_, ?_, ⟨1, ?_⟩, ⟨0, ?_⟩⟩ <;> simp [ReadOk, State.effective, State.reset]
  omega

/-- A sprite of no rows anywhere, one of fifteen at the end of memory, one whose second row is past it. -/
theorem witness_Draws :
    (∀ k, k < (0 : BitVec 4).toNat → ReadOk ((State.reset.setI 0xFFFF).effective k)) ∧
    (∀ k, k < (15 : BitVec 4).toNat → ReadOk ((State.reset.setI 0xFF1).effective k)) ∧
    FirstFailing ReadOk (State.reset.setI 0xFFF) (2 : BitVec 4).toNat 0x1000 ∧
    (0 : Reg) ≠ flagReg ∧ (14 : Reg) ≠ flagReg := by
  refine ⟨?_, ?_, ⟨1, ?_⟩, by decide⟩ <;> simp [ReadOk, State.effective, State.reset]
  omega

/-- The state with glyph 0 at the index and V0 = V1 = 0: cell (0, 0) lies in its footprint and is off, and (1, 1) is not
in it (vector G10); with row 0 on, the footprint meets an on cell. -/
theorem witness_footprint :
    State.reset.inFootprint 0 1 5 0 0 ∧ State.reset.display.pixel 0 0 = false ∧
    (State.reset.setDisplay (oneRow 0 1)).inFootprint 0 1 5 0 0 ∧
    (State.reset.setDisplay (oneRow 0 1)).display.pixel 0 0 = true :=
  ⟨⟨0, 0, by decide, by decide, by decide, by decide, by decide⟩, by decide,
    ⟨0, 0, by decide, by decide, by decide, by decide, by decide⟩, by decide⟩

/-- A first draw at (V[F], V[F]), which writes VF, and a second through V1 at the same place. -/
theorem witness_DrawTwiceRestoresTheDisplay :
    (∀ k, k < (1 : BitVec 4).toNat → ReadOk ((State.reset.setReg 15 5).effective k)) ∧
    ∃ t, exec (.drw 15 15 1) (State.reset.setReg 15 5) = .next t ∧ (t.setReg 1 5).display = t.display ∧
      (t.setReg 1 5).i = (State.reset.setReg 15 5).i ∧
      (∀ k, k < 1 → (t.setReg 1 5).element k = (State.reset.setReg 15 5).element k) ∧
      ((t.setReg 1 5).reg 1).toNat % 64 = ((State.reset.setReg 15 5).reg 15).toNat % 64 ∧
      ((t.setReg 1 5).reg 1).toNat % 32 = ((State.reset.setReg 15 5).reg 15).toNat % 32 :=
  ⟨by simp [ReadOk, State.effective, State.reset], _, rfl, by decide⟩

theorem witness_SkipsOnTheLatchedKey :
    ((State.reset.setReg 3 15).reg 3).toNat ≤ 15 ∧ 15 < ((State.reset.setReg 3 16).reg 3).toNat := by decide

/-- Least key 0, least key 15, and no key. -/
theorem witness_KeyWaitTakesTheLeastKey :
    (State.reset.setKeys 0xFFFF).keypad.getLsbD (0 : Fin 16).val = true ∧
    ((State.reset.setKeys 0x8000).keypad.getLsbD (15 : Fin 16).val = true ∧
      ∀ j, j < 15 → (State.reset.setKeys 0x8000).keypad.getLsbD j = false) ∧
    State.reset.keypad = 0 := by decide

/-! Whole-machine statements: a Step or an instruction that answers, for each clause of the conclusion. -/

/-- A Step that ends with UnknownOpcode, and one with the fetch fault. -/
theorem witness_NonOkStepsOnlyAdvancePc :
    (∃ t, stepWith 7 (placed 0x0000) = .next t ∧ t.out.status ≠ .ok ∧ (placed 0x0000).pc.toNat < 4095) ∧
    (∃ t, stepWith 7 (State.reset.setPc 0xFFF) = .next t ∧ t.out.status ≠ .ok ∧
      4095 ≤ (State.reset.setPc 0xFFF).pc.toNat) :=
  ⟨⟨_, rfl, by decide⟩, ⟨_, rfl, by decide⟩⟩

/-- Each instruction that can raise a status, raising it. -/
theorem witness_EachInstructionRaisesItsOwnStatus :
    (∃ t, exec (.call 0x300) { State.reset with sp := 16 } = .next t ∧ t.out.status ≠ .ok) ∧
    (∃ t, exec .ret State.reset = .next t ∧ t.out.status ≠ .ok) ∧
    (∃ t, exec (.drw 0 1 2) (State.reset.setI 0xFFF) = .next t ∧ t.out.status ≠ .ok) ∧
    (∃ t, exec (.loadRegs 1) (State.reset.setI 0xFFF) = .next t ∧ t.out.status ≠ .ok) ∧
    (∃ t, exec (.storeRegs 0) (State.reset.setI 0x04F) = .next t ∧ t.out.status ≠ .ok) ∧
    (∃ t, exec (.ldB 0) (State.reset.setI 0xFFE) = .next t ∧ t.out.status ≠ .ok) ∧
    (∃ t, exec (.sknp 0) (State.reset.setReg 0 16) = .next t ∧ t.out.status ≠ .ok) :=
  ⟨⟨_, rfl, by decide⟩, ⟨_, rfl, by decide⟩, ⟨_, rfl, by decide⟩, ⟨_, rfl, by decide⟩, ⟨_, rfl, by decide⟩,
    ⟨_, rfl, by decide⟩, ⟨_, rfl, by decide⟩⟩

/-- A Step from a state with a record, and one from a state with none. -/
theorem witness_FirstNonOkStatusIsSticky :
    (∃ t, stepWith 7 { placed 0x0000 with firstNonOk := some (.addressFault 0x1000) } = .next t) ∧
    (∃ t, stepWith 7 (placed 0x0000) = .next t ∧ t.firstNonOk = some (.unknownOpcode 0 0x200)) :=
  ⟨⟨_, rfl⟩, ⟨_, rfl, by decide⟩⟩

/-- Writers of each kind of state that change it. -/
theorem witness_OnlyTheNamedInstructionsWrite :
    (∃ t, exec (.ldB 0) ((State.reset.setI 0x300).setReg 0 255) = .next t ∧ t.memory ≠ State.reset.memory) ∧
    (∃ t, exec (.drw 0 1 5) State.reset = .next t ∧ t.display ≠ State.reset.display) ∧
    (∃ t, exec (.call 0x300) State.reset = .next t ∧ t.stack ≠ State.reset.stack ∧ t.sp ≠ State.reset.sp) ∧
    (∃ t, exec (.ldI 0x300) State.reset = .next t ∧ t.i ≠ State.reset.i) ∧
    (∃ t, exec (.ldDtVx 0) (State.reset.setReg 0 1) = .next t ∧ t.dt ≠ State.reset.dt) ∧
    (∃ t, exec (.ldStVx 0) (State.reset.setReg 0 1) = .next t ∧ t.st ≠ State.reset.st) :=
  ⟨⟨_, rfl, by decide⟩, ⟨_, rfl, by decide⟩, ⟨_, rfl, by decide⟩, ⟨_, rfl, by decide⟩, ⟨_, rfl, by decide⟩,
    ⟨_, rfl, by decide⟩⟩

theorem witness_FlagWritersAreTheSix :
    ∃ t, exec (.addReg 1 2) ((State.reset.setReg 1 0xFF).setReg 2 1) = .next t ∧
      t.reg flagReg ≠ ((State.reset.setReg 1 0xFF).setReg 2 1).reg flagReg := ⟨_, rfl, by decide⟩

theorem witness_ProgramsCannotWriteTheHostsLatches : ∃ t, stepWith 7 (placed 0xF118) = .next t := ⟨_, rfl⟩

/-- A store that ends just above the font, and the last byte of the font. -/
theorem witness_FontIsImmutable :
    ∃ t, stepWith 7 (((placed 0xF055).setI 0x050).setReg 0 1) = .next t ∧ t.memory.read 0x050 = 1 ∧ 0x04F ≤ 0x04F :=
  ⟨_, rfl, by decide⟩

theorem witness_NoInstructionReadsTheSoundTimer : ∃ t, exec (.ldStVx 0) State.reset = .next t := ⟨_, rfl⟩

theorem witness_OnlyRandomReadsTheInputByte :
    (∀ x nn, Instr.ldImm 0 1 ≠ .rnd x nn) ∧ ∃ t, exec (.ldImm 0 1) State.reset = .next t :=
  ⟨by simp, _, rfl⟩

/-- Two stacks that differ in a popped entry alone. -/
theorem witness_PoppedEntriesAreUnreadable :
    (∀ j : Fin 16, j.val < ({ State.reset with sp := 1 } : State).sp.val →
      ((Vector.replicate 16 0 : Vector Word 16).set 1 0x300)[j.val] = State.reset.stack[j.val]) ∧
    ∃ t, exec .ret { State.reset with sp := 1 } = .next t := ⟨by decide, _, rfl⟩

/-- A call at the last free depth, and the return from the state it leads to. -/
theorem witness_CallThenReturnComesBack :
    ∃ t, exec (.call 0x300) { State.reset with sp := 15 } = .next t ∧
      ({ State.reset with sp := 15 } : State).sp.val = (15 : Fin 16).val := ⟨_, rfl, by decide⟩

/-- A store of two registers that reads back from the state it leads to, over the next instruction. -/
theorem witness_StoreThenLoad :
    ∃ t, exec (.storeRegs 1) ((State.reset.setI 0x200).setReg 0 0x63) = .next t ∧ t.out.status = .ok ∧
      t.i = ((State.reset.setI 0x200).setReg 0 0x63).i ∧ (1 : Reg).val = (0 : Reg).val + 1 ∧
      ((State.reset.setI 0x200).setReg 0 0x63).effective (0 : Reg).val =
        ((State.reset.setI 0x200).setReg 0 0x63).pc.toNat := ⟨_, rfl, by decide⟩

/-! Runs, events, the invariant. -/

theorem witness_HaltedForever : (State.reset.setPc 0x1000).halted ∧ (State.reset.setPc 0xFFFF).halted := by
  constructor <;> (show 4096 ≤ _; decide)

theorem witness_FetchFaultRepeatsForever : (State.reset.setPc 0xFFF).pc.toNat = 4095 ∧ 0 < 1 := by decide

theorem witness_ParkedForever : (placed 0x1200).parked := ⟨by decide, 0x200, by decide, by decide⟩

/-- Waiting with no event to come, and with a Tick and an AckAudio to come. -/
theorem witness_KeyWaitHoldsUntilSetKeys :
    let s : State := { placed 0xF20A with inputs := [[.tick, .ackAudio]] }
    s.pc.toNat < 4095 ∧ decodeWord s.wordAtPc = .ok (.ldVxK 2) ∧ s.keypad = 0 ∧
      ∀ es ∈ s.inputs, ∀ e ∈ es, ∀ k, e ≠ .setKeys k := by
  refine ⟨by decide, by decide, by decide, ?_⟩
  intro es hes e he k
  simp only [List.mem_singleton] at hes
  subst hes
  rcases List.mem_pair.1 he with rfl | rfl <;> simp

/-- A cleared word at the last place a fetch can be at, and a reset machine with shifts in place and a Tick to come; the
first Step, the last that reports, and the first halted one. -/
theorem witness_EmptyMemoryRunsIntoTheHalt :
    ((State.reset.setPc 0xFFE).pc.toNat < 4095 ∧ (State.reset.setPc 0xFFE).wordAtPc = 0) ∧
    (∃ s : State, s = { State.resetWith { defaultConfig with shiftSrcVY := false } with inputs := [[.tick]] }) ∧
    (0 < 1 ∧ 1 ≤ 1792) ∧ (0 < 1792 ∧ 1792 ≤ 1792) ∧ 1792 < 1793 := ⟨by decide, ⟨_, rfl⟩, by decide⟩

theorem witness_TicksCountDownToZero :
    (Nat.iterate State.tick 2 (State.reset.setSt 3)).ackAudio.tick.playAudio = true ∧
    (Nat.iterate State.tick 3 (State.reset.setSt 3)).ackAudio.tick.playAudio = false := by decide

theorem witness_ResetLeavesEveryValueOfTheTable :
    ((State.reset.setPc 0x300).setReg 3 9).resetEvent.pc = 0x200 ∧ 0x050 ≤ 0x050 ∧ 0xFFF < 4096 := by decide

theorem witness_LoadWritesTheProgram :
    0x200 + (List.replicate 3584 (0 : Byte)).length ≤ 4096 ∧ 4096 < 0x200 + (List.replicate 3585 (0 : Byte)).length ∧
    0x200 + ([] : List Byte).length ≤ 4096 := by
  rw [List.length_replicate, List.length_replicate]; decide

/-- A state that meets the invariant and takes a step. -/
theorem witness_EveryStepKeepsTheInvariant : State.reset.Inv ∧ ∃ t, step State.reset = .next t :=
  ⟨⟨by decide, by decide, by decide, by decide, by decide⟩, _, rfl⟩

/-- Sessions in each phase: nothing done, a Reset, a Load. -/
theorem witness_EveryLegalSessionKeepsTheInvariant :
    ((Session.powerOn defaultConfig).applyAll []).map (·.phase) = some .off ∧
    ((Session.powerOn defaultConfig).applyAll [.reset]).map (·.phase) = some .fresh ∧
    ((Session.powerOn defaultConfig).applyAll [.reset, .load [0x12, 0x00]]).map (·.phase) = some .running := by decide

/-- An event in each phase: the first Reset, a Load after it, a Step and a Tick of the running machine. -/
theorem witness_EveryEventKeepsTheInvariant :
    ((Session.powerOn defaultConfig).apply .reset).map (·.phase) = some .fresh ∧
    (State.reset.Inv ∧ ((Session.mk .fresh State.reset).apply (.load [0x12, 0x00])).map (·.phase) = some .running) ∧
    ((Session.mk .running State.reset).apply (.step 7)).map (·.phase) = some .running ∧
    ((Session.mk .running State.reset).apply (.input .tick)).map (·.phase) = some .running :=
  ⟨by decide, ⟨⟨by decide, by decide, by decide, by decide, by decide⟩, by decide⟩, by decide, by decide⟩

end Sys2Proof.Tests
end

/-! PROOFS, family 10_state.md: what every instruction can do to the state, said once (`Effect`), what it cannot see
(`withUnseen`), and the invariant of every step and every event. -/

namespace Sys2Proof.Machine

/-! ## Instructions with two outcomes, one equation an outcome -/

theorem exec_ret_of_pop {s u : State} {a : Word} (h : s.pop = some (a, u)) :
    exec .ret s = .next (u.setPc a).finish := by simp only [exec, execRet, h]

theorem exec_ret_of_empty {s : State} (h : s.pop = none) :
    exec .ret s = .next (s.raise (.stackUnderflow s.fetchedAt)) := by simp only [exec, execRet, h]

theorem exec_call_of_push {s u : State} (nnn : BitVec 12) (h : s.push s.pc = some u) :
    exec (.call nnn) s = .next (u.setPc (addressOf nnn)).finish := by simp only [exec, execCall, h]

theorem exec_call_of_full {s : State} (nnn : BitVec 12) (h : s.push s.pc = none) :
    exec (.call nnn) s = .next (s.raise (.stackOverflow s.fetchedAt)) := by simp only [exec, execCall, h]

theorem exec_ldB_of_writable {s : State} (x : Reg) (h : s.badWrite 3 = none) :
    exec (.ldB x) s = .next (s.storeAtI (decimalDigits (s.reg x))).finish := by simp only [exec, execLdB, h]

theorem exec_ldB_of_bad {s : State} {a : Nat} (x : Reg) (h : s.badWrite 3 = some a) :
    exec (.ldB x) s = .next (s.raise (.addressFault a)) := by simp only [exec, execLdB, h]

theorem exec_storeRegs_of_writable {s : State} {x : Reg} (h : s.badWrite (x.val + 1) = none) :
    exec (.storeRegs x) s = .next (s.storeAtI (s.regsThrough x)).finish := by simp only [exec, execStoreRegs, h]

theorem exec_storeRegs_of_bad {s : State} {x : Reg} {a : Nat} (h : s.badWrite (x.val + 1) = some a) :
    exec (.storeRegs x) s = .next (s.raise (.addressFault a)) := by simp only [exec, execStoreRegs, h]

theorem exec_loadRegs_of_readable {s : State} {x : Reg} (h : s.badRead (x.val + 1) = none) :
    exec (.loadRegs x) s = .next (s.loadThrough x).finish := by simp only [exec, execLoadRegs, h]

theorem exec_loadRegs_of_bad {s : State} {x : Reg} {a : Nat} (h : s.badRead (x.val + 1) = some a) :
    exec (.loadRegs x) s = .next (s.raise (.addressFault a)) := by simp only [exec, execLoadRegs, h]

/-- The drawing of DXYN: the display it leaves and its collision bit (R152). -/
def State.drawing (s : State) (x y : Reg) (n : BitVec 4) : Draw :=
  Draw.sprite ((s.reg x).toNat % 64) ((s.reg y).toNat % 32) n.toNat s.element s.display

theorem exec_drw_of_readable {s : State} {n : BitVec 4} (x y : Reg) (h : s.badRead n.toNat = none) :
    exec (.drw x y n) s = .next ((s.setDisplay (s.drawing x y n).display).setReg flagReg
      (flagByte (s.drawing x y n).hit)).finishDrawn := by simp only [exec, execDrw, h, State.drawing]

theorem exec_drw_of_bad {s : State} {n : BitVec 4} {a : Nat} (x y : Reg) (h : s.badRead n.toNat = some a) :
    exec (.drw x y n) s = .next (s.raise (.addressFault a)) := by simp only [exec, execDrw, h]

theorem skipOnKey_of_key {s : State} {x : Reg} (wanted : Bool) (h : ¬ 15 < (s.reg x).toNat) :
    skipOnKey x wanted s = .next (s.skipIf (s.keyDown (s.reg x).toNat == wanted)).finish := by
  simp only [skipOnKey, h, if_false]

theorem skipOnKey_of_bad {s : State} {x : Reg} (wanted : Bool) (h : 15 < (s.reg x).toNat) :
    skipOnKey x wanted s = .next (s.raise (.keyIndexFault (s.reg x))) := by simp only [skipOnKey, h, if_true]

theorem exec_ldVxK_of_key {s : State} {k : Nat} (x : Reg) (h : s.lowestKey = some k) :
    exec (.ldVxK x) s = .next (s.setReg x (BitVec.ofNat 8 k)).finish := by simp only [exec, execLdVxK, h]

theorem exec_ldVxK_of_none {s : State} (x : Reg) (h : s.lowestKey = none) :
    exec (.ldVxK x) s = .next (s.setPc s.fetchedAt).finishWaiting := by simp only [exec, execLdVxK, h]

/-! ## What an instruction can write -/

/-- The instructions that write one register, X, and no flag. -/
def WritesReg (i : Instr) (x : Reg) : Prop :=
  (∃ nn, i = .ldImm x nn ∨ i = .addImm x nn ∨ i = .rnd x nn) ∨
  (∃ y, i = .ldReg x y ∨ i = .orReg x y ∨ i = .andReg x y ∨ i = .xorReg x y) ∨
  i = .ldVxDt x ∨ i = .ldVxK x

/-- The instructions that write register X and then the flag (R133). -/
def WritesRegFlag (i : Instr) (x : Reg) : Prop :=
  ∃ y, i = .addReg x y ∨ i = .subReg x y ∨ i = .shrReg x y ∨ i = .subnReg x y ∨ i = .shlReg x y

/-- `Effect s i u`: `u` is a state that instruction `i` may leave of `s` before it puts out its outputs. One constructor
a kind of write, with the instructions that make it and the bounds on what they write; `kept` stands for a raised status
and a skip not taken, `moved` for every jump and skip and the wait of FX0A. -/
inductive Effect (s : State) : Instr → State → Prop
  | kept (i : Instr) : Effect s i s
  | reg {i : Instr} {x : Reg} (b : Byte) (hi : WritesReg i x) : Effect s i (s.setReg x b)
  | regFlag {i : Instr} {x : Reg} (b f : Byte) (hi : WritesRegFlag i x) :
      Effect s i ((s.setReg x b).setReg flagReg f)
  | moved (i : Instr) (a : Word) (ha : a = s.pc + 2 ∨ a = s.fetchedAt ∨ a.toNat ≤ 0x10FE) : Effect s i (s.setPc a)
  | popped {a : Word} {u : State} (h : s.pop = some (a, u)) : Effect s .ret (u.setPc a)
  | pushed (nnn : BitVec 12) {u : State} (h : s.push s.pc = some u) : Effect s (.call nnn) (u.setPc (addressOf nnn))
  | index {i : Instr} (a : Word) (hi : (∃ nnn, i = .ldI nnn) ∨ (∃ x, i = .addI x) ∨ ∃ x, i = .ldF x) :
      Effect s i (s.setI a)
  | delay (x : Reg) : Effect s (.ldDtVx x) (s.setDt (s.reg x))
  | sound (x : Reg) : Effect s (.ldStVx x) (s.setSt (s.reg x))
  | stored {i : Instr} (bs : List Byte) (hi : (∃ x, i = .ldB x) ∨ ∃ x, i = .storeRegs x)
      (hbs : ∀ k, k < bs.length → WriteOk (s.effective k)) : Effect s i (s.storeAtI bs)
  | loaded (x : Reg) : Effect s (.loadRegs x) (s.loadThrough x)
  | cleared : Effect s .cls (s.setDisplay Display.clear)
  | drawn (x y : Reg) (n : BitVec 4) (d : Display) (f : Byte) :
      Effect s (.drw x y n) ((s.setDisplay d).setReg flagReg f)

theorem addressOf_le (nnn : BitVec 12) : (addressOf nnn).toNat ≤ 0xFFF := by
  have := nnn.isLt
  simp only [addressOf, BitVec.toNat_ofNat]
  omega

theorem Effect.skipped (s : State) (i : Instr) (c : Bool) : Effect s i (s.skipIf c) := by
  cases c
  · exact .kept i
  · exact .moved i _ (.inl rfl)

theorem regsThrough_length (s : State) (x : Reg) : (s.regsThrough x).length = x.val + 1 := by
  simp [State.regsThrough]

/-- The target of BNNN passes 0x10FE for no V0 (R22, R103). -/
theorem jpV0_target_le (nnn : BitVec 12) (b : Byte) : (BitVec.ofNat 16 (nnn.toNat + b.toNat)).toNat ≤ 0x10FE := by
  have := nnn.isLt
  have := b.isLt
  simp only [BitVec.toNat_ofNat]
  omega

/-- Every instruction answers a next state: one of its effects, with its outputs put out. -/
theorem exec_effect (i : Instr) (s : State) : ∃ u o, exec i s = .next (u.report o) ∧ Effect s i u := by
  cases i with
  | cls => exact ⟨_, _, rfl, .cleared⟩
  | ret =>
    rcases h : s.pop with _ | ⟨a, u⟩
    · exact ⟨_, _, exec_ret_of_empty h, .kept _⟩
    · exact ⟨_, _, exec_ret_of_pop h, .popped h⟩
  | jp nnn => exact ⟨_, _, rfl, .moved _ _ (.inr (.inr ((addressOf_le nnn).trans (by decide))))⟩
  | call nnn =>
    rcases h : s.push s.pc with _ | u
    · exact ⟨_, _, exec_call_of_full nnn h, .kept _⟩
    · exact ⟨_, _, exec_call_of_push nnn h, .pushed nnn h⟩
  | seImm x nn => exact ⟨_, _, rfl, .skipped _ _ _⟩
  | sneImm x nn => exact ⟨_, _, rfl, .skipped _ _ _⟩
  | seReg x y => exact ⟨_, _, rfl, .skipped _ _ _⟩
  | ldImm x nn => exact ⟨_, _, rfl, .reg _ (.inl ⟨nn, .inl rfl⟩)⟩
  | addImm x nn => exact ⟨_, _, rfl, .reg _ (.inl ⟨nn, .inr (.inl rfl)⟩)⟩
  | ldReg x y => exact ⟨_, _, rfl, .reg _ (.inr (.inl ⟨y, .inl rfl⟩))⟩
  | orReg x y => exact ⟨_, _, rfl, .reg _ (.inr (.inl ⟨y, .inr (.inl rfl)⟩))⟩
  | andReg x y => exact ⟨_, _, rfl, .reg _ (.inr (.inl ⟨y, .inr (.inr (.inl rfl))⟩))⟩
  | xorReg x y => exact ⟨_, _, rfl, .reg _ (.inr (.inl ⟨y, .inr (.inr (.inr rfl))⟩))⟩
  | addReg x y => exact ⟨_, _, rfl, .regFlag _ _ ⟨y, .inl rfl⟩⟩
  | subReg x y => exact ⟨_, _, rfl, .regFlag _ _ ⟨y, .inr (.inl rfl)⟩⟩
  | shrReg x y => exact ⟨_, _, rfl, .regFlag _ _ ⟨y, .inr (.inr (.inl rfl))⟩⟩
  | subnReg x y => exact ⟨_, _, rfl, .regFlag _ _ ⟨y, .inr (.inr (.inr (.inl rfl)))⟩⟩
  | shlReg x y => exact ⟨_, _, rfl, .regFlag _ _ ⟨y, .inr (.inr (.inr (.inr rfl)))⟩⟩
  | sneReg x y => exact ⟨_, _, rfl, .skipped _ _ _⟩
  | ldI nnn => exact ⟨_, _, rfl, .index _ (.inl ⟨nnn, rfl⟩)⟩
  | jpV0 nnn => exact ⟨_, _, rfl, .moved _ _ (.inr (.inr (jpV0_target_le nnn _)))⟩
  | rnd x nn => exact ⟨_, _, rfl, .reg _ (.inl ⟨nn, .inr (.inr rfl)⟩)⟩
  | drw x y n =>
    rcases h : s.badRead n.toNat with _ | a
    · exact ⟨_, _, exec_drw_of_readable x y h, .drawn x y n _ _⟩
    · exact ⟨_, _, exec_drw_of_bad x y h, .kept _⟩
  | skp x =>
    by_cases h : 15 < (s.reg x).toNat
    · exact ⟨_, _, skipOnKey_of_bad true h, .kept _⟩
    · exact ⟨_, _, skipOnKey_of_key true h, .skipped _ _ _⟩
  | sknp x =>
    by_cases h : 15 < (s.reg x).toNat
    · exact ⟨_, _, skipOnKey_of_bad false h, .kept _⟩
    · exact ⟨_, _, skipOnKey_of_key false h, .skipped _ _ _⟩
  | ldVxDt x => exact ⟨_, _, rfl, .reg _ (.inr (.inr (.inl rfl)))⟩
  | ldVxK x =>
    rcases h : s.lowestKey with _ | k
    · exact ⟨_, _, exec_ldVxK_of_none x h, .moved _ _ (.inr (.inl rfl))⟩
    · exact ⟨_, _, exec_ldVxK_of_key x h, .reg _ (.inr (.inr (.inr rfl)))⟩
  | ldDtVx x => exact ⟨_, _, rfl, .delay x⟩
  | ldStVx x => exact ⟨_, _, rfl, .sound x⟩
  | addI x => exact ⟨_, _, rfl, .index _ (.inr (.inl ⟨x, rfl⟩))⟩
  | ldF x => exact ⟨_, _, rfl, .index _ (.inr (.inr ⟨x, rfl⟩))⟩
  | ldB x =>
    rcases h : s.badWrite 3 with _ | a
    · exact ⟨_, _, exec_ldB_of_writable x h, .stored _ (.inl ⟨x, rfl⟩) (State.badWrite_eq_none.1 h)⟩
    · exact ⟨_, _, exec_ldB_of_bad x h, .kept _⟩
  | storeRegs x =>
    rcases h : s.badWrite (x.val + 1) with _ | a
    · refine ⟨_, _, exec_storeRegs_of_writable h, .stored _ (.inr ⟨x, rfl⟩) ?_⟩
      rw [regsThrough_length]
      exact State.badWrite_eq_none.1 h
    · exact ⟨_, _, exec_storeRegs_of_bad h, .kept _⟩
  | loadRegs x =>
    rcases h : s.badRead (x.val + 1) with _ | a
    · exact ⟨_, _, exec_loadRegs_of_readable h, .loaded x⟩
    · exact ⟨_, _, exec_loadRegs_of_bad h, .kept _⟩

/-- The state an instruction leaves is one of its effects, with its outputs put out. -/
theorem effect_of_exec {i : Instr} {s t : State} (h : exec i s = .next t) :
    ∃ u o, t = u.report o ∧ Effect s i u := by
  obtain ⟨u, o, hu, he⟩ := exec_effect i s
  rw [h] at hu
  injection hu with hu
  exact ⟨u, o, hu, he⟩

/-- A push writes the stack and sp alone. -/
theorem State.push_eq {s u : State} {a : Word} (h : s.push a = some u) :
    u = { s with stack := u.stack, sp := u.sp } := by
  obtain ⟨-, rfl⟩ := State.push_eq_some.1 h
  rfl

/-- A pop writes sp alone. -/
theorem State.pop_eq {s u : State} {a : Word} (h : s.pop = some (a, u)) : u = { s with sp := u.sp } := by
  obtain ⟨-, -, rfl⟩ := State.pop_eq_some.1 h
  rfl

/-! ## Who writes what -/

/-- Settles O36: the one kind of effect that writes the part carries the instructions named for it. -/
theorem onlyTheNamedInstructionsWrite : Obligations.OnlyTheNamedInstructionsWrite := by
  intro i s t h
  obtain ⟨u, o, rfl, he⟩ := effect_of_exec h
  cases he with
  | popped hp =>
    rw [State.pop_eq hp]
    simp
  | pushed nnn hp =>
    rw [State.push_eq hp]
    simp
  | index a hi => simp [hi]
  | stored bs hi => simp [hi]
  | _ => simp

/-- Settles O37: of the effects on a register, those that can reach VF carry the six flag writers or VF itself. -/
theorem flagWritersAreTheSix : Obligations.FlagWritersAreTheSix := by
  intro i s t h hne
  obtain ⟨u, o, rfl, he⟩ := effect_of_exec h
  cases he with
  | @reg _ x b hi =>
    obtain rfl : flagReg = x := by
      by_contra hx
      exact hne (State.reg_setReg_ne _ _ hx)
    rcases hi with hi | hi | hi | hi
    · exact .inr (.inr (.inl hi))
    · exact .inr (.inr (.inr (.inl hi)))
    · exact .inr (.inr (.inr (.inr (.inl hi))))
    · exact .inr (.inr (.inr (.inr (.inr (.inl hi)))))
  | @regFlag _ x b f hi => exact .inl ⟨x, hi⟩
  | popped hp =>
    rw [State.pop_eq hp] at hne
    exact absurd rfl hne
  | pushed nnn hp =>
    rw [State.push_eq hp] at hne
    exact absurd rfl hne
  | loaded x =>
    have hx : x = flagReg := by
      by_contra hx
      have hlt : ¬ 15 ≤ x.val := fun hle => hx (Fin.ext (Nat.le_antisymm (Nat.le_of_lt_succ x.isLt) hle))
      exact hne ((State.reg_loadThrough s x flagReg).trans (if_neg hlt))
    exact .inr (.inr (.inr (.inr (.inr (.inr (congrArg Instr.loadRegs hx))))))
  | drawn x y n => exact .inr (.inl ⟨x, y, n, rfl⟩)
  | _ => exact absurd rfl hne

/-! ## What no instruction sees -/

/-- `s` with other values of ST, playAudio, the input byte and the stack. -/
def State.withUnseen (s : State) (b : Byte) (p : Bool) (r : Byte) (k : Vector Word 16) : State :=
  { s with st := b, playAudio := p, rnd := r, stack := k }

/-- A skip neither reads nor writes one of the four. -/
theorem State.skipIf_finish_withUnseen (s : State) (c : Bool) (b : Byte) (p : Bool) (r : Byte) (k : Vector Word 16) :
    ((s.withUnseen b p r k).skipIf c).finish = (s.skipIf c).finish.withUnseen b p r k := by cases c <;> rfl

/-- The instructions that neither read nor write one of the four. -/
def Blind : Instr → Prop
  | .ret | .call _ | .rnd _ _ | .ldStVx _ => False
  | _ => True

/-- A blind instruction leaves ST, the stack and sp (R46). -/
theorem exec_kept_of_blind {i : Instr} {s t : State} (hi : Blind i) (h : exec i s = .next t) :
    t.st = s.st ∧ t.stack = s.stack ∧ t.sp = s.sp := by
  obtain ⟨-, -, hstack, hsp, -, -, hst⟩ := onlyTheNamedInstructionsWrite i s t h
  refine ⟨hst.resolve_right ?_, hstack.resolve_right ?_, hsp.resolve_right ?_⟩
  · rintro ⟨x, rfl⟩
    exact hi
  · rintro ⟨nnn, rfl⟩
    exact hi
  · rintro (rfl | ⟨nnn, rfl⟩)
    · exact hi
    · exact hi

/-- An effect leaves the input byte and playAudio. -/
theorem exec_rnd_playAudio {i : Instr} {s t : State} (h : exec i s = .next t) :
    t.rnd = s.rnd ∧ t.playAudio = s.playAudio := by
  obtain ⟨u, o, rfl, he⟩ := effect_of_exec h
  cases he with
  | popped hp =>
    rw [State.pop_eq hp]
    exact ⟨rfl, rfl⟩
  | pushed nnn hp =>
    rw [State.push_eq hp]
    exact ⟨rfl, rfl⟩
  | _ => exact ⟨rfl, rfl⟩

theorem skipOnKey_withUnseen {x : Reg} {w : Bool} {s t : State} (b : Byte) (p : Bool) (r : Byte)
    (k : Vector Word 16) (h : skipOnKey x w s = .next t) :
    skipOnKey x w (s.withUnseen b p r k) = .next (t.withUnseen b p r k) := by
  by_cases hk : 15 < (s.reg x).toNat
  · rw [skipOnKey_of_bad w hk] at h
    cases h
    exact skipOnKey_of_bad w hk
  · rw [skipOnKey_of_key w hk] at h
    cases h
    exact (skipOnKey_of_key (s := s.withUnseen b p r k) w hk).trans
      (congrArg _ (State.skipIf_finish_withUnseen s _ b p r k))

/-- It is enough to know one answer of an instruction from each of the two states. -/
theorem exec_withUnseen_of_eq {i : Instr} {s t u : State} {b r : Byte} {p : Bool} {k : Vector Word 16}
    (hs : exec i s = .next u) (hw : exec i (s.withUnseen b p r k) = .next (u.withUnseen b p r k))
    (h : exec i s = .next t) : exec i (s.withUnseen b p r k) = .next (t.withUnseen b p r k) := by
  rw [hs] at h
  cases h
  exact hw

/-- A blind instruction does the same whatever the four parts hold, and carries them along. -/
theorem exec_withUnseen_of_blind {i : Instr} {s t : State} (b : Byte) (p : Bool) (r : Byte) (k : Vector Word 16)
    (hi : Blind i) (h : exec i s = .next t) :
    exec i (s.withUnseen b p r k) = .next (t.withUnseen b p r k) := by
  cases i with
  | ret => exact hi.elim
  | call nnn => exact hi.elim
  | rnd x nn => exact hi.elim
  | ldStVx x => exact hi.elim
  | seImm x nn => exact exec_withUnseen_of_eq rfl (congrArg _ (State.skipIf_finish_withUnseen s _ b p r k)) h
  | sneImm x nn => exact exec_withUnseen_of_eq rfl (congrArg _ (State.skipIf_finish_withUnseen s _ b p r k)) h
  | seReg x y => exact exec_withUnseen_of_eq rfl (congrArg _ (State.skipIf_finish_withUnseen s _ b p r k)) h
  | sneReg x y => exact exec_withUnseen_of_eq rfl (congrArg _ (State.skipIf_finish_withUnseen s _ b p r k)) h
  | skp x => exact skipOnKey_withUnseen b p r k h
  | sknp x => exact skipOnKey_withUnseen b p r k h
  | drw x y n =>
    rcases hb : s.badRead n.toNat with _ | a
    · exact exec_withUnseen_of_eq (exec_drw_of_readable x y hb) (exec_drw_of_readable x y hb) h
    · exact exec_withUnseen_of_eq (exec_drw_of_bad x y hb) (exec_drw_of_bad x y hb) h
  | ldVxK x =>
    rcases hb : s.lowestKey with _ | a
    · exact exec_withUnseen_of_eq (exec_ldVxK_of_none x hb) (exec_ldVxK_of_none x hb) h
    · exact exec_withUnseen_of_eq (exec_ldVxK_of_key x hb) (exec_ldVxK_of_key x hb) h
  | ldB x =>
    rcases hb : s.badWrite 3 with _ | a
    · exact exec_withUnseen_of_eq (exec_ldB_of_writable x hb) (exec_ldB_of_writable x hb) h
    · exact exec_withUnseen_of_eq (exec_ldB_of_bad x hb) (exec_ldB_of_bad x hb) h
  | storeRegs x =>
    rcases hb : s.badWrite (x.val + 1) with _ | a
    · exact exec_withUnseen_of_eq (exec_storeRegs_of_writable hb) (exec_storeRegs_of_writable hb) h
    · exact exec_withUnseen_of_eq (exec_storeRegs_of_bad hb) (exec_storeRegs_of_bad hb) h
  | loadRegs x =>
    rcases hb : s.badRead (x.val + 1) with _ | a
    · exact exec_withUnseen_of_eq (exec_loadRegs_of_readable hb) (exec_loadRegs_of_readable hb) h
    · exact exec_withUnseen_of_eq (exec_loadRegs_of_bad hb) (exec_loadRegs_of_bad hb) h
  | _ => exact exec_withUnseen_of_eq rfl rfl h

/-- With other values of the four an instruction does the same to all the rest, provided that CXNN has its input byte
and the stack its entries in use. It leaves the four as different as they were, at most. -/
theorem exec_withUnseen {i : Instr} {s t : State} {b r : Byte} {p : Bool} {k : Vector Word 16}
    (hr : (∀ x nn, i ≠ .rnd x nn) ∨ r = s.rnd) (hk : ∀ j : Fin 16, j.val < s.sp.val → k[j.val] = s.stack[j.val])
    (h : exec i s = .next t) :
    ∃ b' k', exec i (s.withUnseen b p r k) = .next (t.withUnseen b' p r k') ∧ (b = s.st → b' = t.st) ∧
      (k = s.stack → k' = t.stack) ∧ ∀ j : Fin 16, j.val < t.sp.val → k'[j.val] = t.stack[j.val] := by
  cases i with
  | ret =>
    rcases hp : s.pop with _ | ⟨a, u⟩
    · rw [exec_ret_of_empty hp] at h
      cases h
      have hsp : s.sp.val = 0 := State.pop_eq_none.1 hp
      exact ⟨b, k, exec_ret_of_empty (State.pop_eq_none.2 hsp), id, id, hk⟩
    · rw [exec_ret_of_pop hp] at h
      cases h
      obtain ⟨hsp, rfl, rfl⟩ := State.pop_eq_some.1 hp
      have := s.sp.isLt
      have htop : k[s.sp.val - 1] = s.stack[s.sp.val - 1] := hk ⟨s.sp.val - 1, by omega⟩ (by simp; omega)
      have hp' : (s.withUnseen b p r k).pop = some (k[s.sp.val - 1], _) := State.pop_eq_some.2 ⟨hsp, rfl, rfl⟩
      refine ⟨b, k, ?_, id, id, fun j hj => hk j (Nat.lt_of_lt_pred hj)⟩
      rw [exec_ret_of_pop hp', htop]
      rfl
  | call nnn =>
    rcases hp : s.push s.pc with _ | u
    · rw [exec_call_of_full nnn hp] at h
      cases h
      have hsp : s.sp.val = 16 := State.push_eq_none.1 hp
      exact ⟨b, k, exec_call_of_full nnn (State.push_eq_none.2 hsp), id, id, hk⟩
    · rw [exec_call_of_push nnn hp] at h
      cases h
      obtain ⟨hsp, rfl⟩ := State.push_eq_some.1 hp
      have hp' : (s.withUnseen b p r k).push s.pc = some _ := State.push_eq_some.2 ⟨hsp, rfl⟩
      refine ⟨b, k.set s.sp.val s.pc, exec_call_of_push nnn hp', id, ?_, fun j hj => ?_⟩
      · rintro rfl
        rfl
      · show (k.set s.sp.val s.pc)[j.val] = (s.stack.set s.sp.val s.pc)[j.val]
        simp only [Vector.getElem_set]
        by_cases hjs : s.sp.val = j.val
        · simp [hjs]
        · simp only [hjs, if_false]
          exact hk j (by have : j.val < s.sp.val + 1 := hj; omega)
  | rnd x nn =>
    obtain rfl : r = s.rnd := hr.resolve_left fun hne => hne x nn rfl
    cases h
    exact ⟨b, k, rfl, id, id, hk⟩
  | ldStVx x =>
    cases h
    exact ⟨s.reg x, k, rfl, fun _ => rfl, id, hk⟩
  | _ =>
    obtain ⟨hst, hstack, hsp⟩ := exec_kept_of_blind (by trivial) h
    rw [hst, hstack, hsp]
    exact ⟨b, k, exec_withUnseen_of_blind b p r k (by trivial) h, id, id, hk⟩

/-- Settles O40: `exec_withUnseen` with the same input byte and the same stack. -/
theorem noInstructionReadsTheSoundTimer : Obligations.NoInstructionReadsTheSoundTimer := by
  intro i s t b p h
  obtain ⟨b', k', hu, -, hk', -⟩ := exec_withUnseen (b := b) (p := p) (.inr rfl) (fun _ _ => rfl) h
  obtain ⟨hrnd, -⟩ := exec_rnd_playAudio h
  obtain rfl := hk' rfl
  refine ⟨_, hu, ?_⟩
  rw [← hrnd]
  rfl

/-- Settles O41: `exec_withUnseen` with the same timer, the same latch and the same stack. -/
theorem onlyRandomReadsTheInputByte : Obligations.OnlyRandomReadsTheInputByte := by
  intro i s t r hi h
  obtain ⟨b', k', hu, hb', hk', -⟩ := exec_withUnseen (r := r) (p := s.playAudio) (.inl hi) (fun _ _ => rfl) h
  obtain ⟨-, hplay⟩ := exec_rnd_playAudio h
  obtain rfl := hb' rfl
  obtain rfl := hk' rfl
  refine ⟨_, hu, ?_⟩
  rw [← hplay]
  rfl

/-- Settles O42: `exec_withUnseen` with other entries above sp alone. -/
theorem poppedEntriesAreUnreadable : Obligations.PoppedEntriesAreUnreadable := by
  intro i s t k hk h
  obtain ⟨b', k', hu, hb', -, hused⟩ := exec_withUnseen (p := s.playAudio) (.inr rfl) hk h
  obtain ⟨hrnd, hplay⟩ := exec_rnd_playAudio h
  obtain rfl := hb' rfl
  refine ⟨_, hu, ?_, hused⟩
  rw [← hrnd, ← hplay]
  rfl

/-! ## What every effect keeps -/

theorem Effect.config {i : Instr} {s u : State} (he : Effect s i u) : u.config = s.config := by
  cases he with
  | popped hp => rw [State.pop_eq hp]; rfl
  | pushed nnn hp => rw [State.push_eq hp]; rfl
  | _ => rfl

/-- An effect writes memory by a block of writable addresses or not at all (R46, R58). -/
theorem Effect.memory {i : Instr} {s u : State} (he : Effect s i u) :
    u.memory = s.memory ∨ ∃ bs : List Byte, u.memory = s.memory.writeBlock (s.effective 0) bs ∧
      ∀ k, k < bs.length → WriteOk (s.effective k) := by
  cases he with
  | popped hp => rw [State.pop_eq hp]; exact .inl rfl
  | pushed nnn hp => rw [State.push_eq hp]; exact .inl rfl
  | stored bs hi hbs => exact .inr ⟨bs, rfl, hbs⟩
  | _ => exact .inl rfl

/-- A writable block begins above the font and ends in memory, unless it is empty. -/
theorem writable_block_bounds {s : State} {bs : List Byte} (hbs : ∀ k, k < bs.length → WriteOk (s.effective k)) :
    bs = [] ∨ 0x050 ≤ s.effective 0 ∧ s.effective 0 + bs.length ≤ 4096 := by
  rcases Nat.eq_zero_or_pos bs.length with h0 | hpos
  · exact .inl (List.length_eq_zero_iff.1 h0)
  · obtain ⟨hlow, -⟩ := hbs 0 hpos
    obtain ⟨-, hhigh⟩ := hbs (bs.length - 1) (by omega)
    simp only [State.effective] at *
    exact .inr ⟨hlow, by omega⟩

theorem Effect.memory_wf {i : Instr} {s u : State} (he : Effect s i u) (hm : s.memory.wf) : u.memory.wf := by
  obtain hu | ⟨bs, hu, hbs⟩ := he.memory
  · rwa [hu]
  · rw [hu]
    obtain rfl | ⟨-, hhigh⟩ := writable_block_bounds hbs
    · exact hm
    · exact Memory.wf_writeBlock hm _ _ hhigh

/-- No effect reaches the font (R51, D5). -/
theorem Effect.read_font {i : Instr} {s u : State} (he : Effect s i u) {a : Nat} (ha : a < 0x050) :
    u.memory.read a = s.memory.read a := by
  obtain hu | ⟨bs, hu, hbs⟩ := he.memory
  · rw [hu]
  · rw [hu]
    obtain rfl | ⟨hlow, -⟩ := writable_block_bounds hbs
    · rfl
    · exact Memory.read_writeBlock_outside _ _ _ _ (.inl (by omega))

/-- A return address never lies past memory. -/
def ReturnBound (s : State) : Prop := ∀ k : Fin 16, (s.stack[k.val]).toNat ≤ 0x1000

/-- After a fetch, pc moves to 0x10FE at most (R22): a skip, FX0A's wait, a jump or a return. -/
theorem Effect.pc_le {i : Instr} {s u : State} (he : Effect s i u) (hs : ReturnBound s) (hlow : 2 ≤ s.pc.toNat)
    (hhigh : s.pc.toNat ≤ 0x1000) : u.pc.toNat ≤ 0x10FE := by
  cases he with
  | moved i a ha =>
    rcases ha with rfl | rfl | ha
    · show (s.pc + 2).toNat ≤ 0x10FE
      bv_omega
    · show (s.pc - 2).toNat ≤ 0x10FE
      bv_omega
    · exact ha
  | popped hp =>
    obtain ⟨hsp, rfl, -⟩ := State.pop_eq_some.1 hp
    have := s.sp.isLt
    exact (hs ⟨s.sp.val - 1, by omega⟩).trans (by decide)
  | pushed nnn hp => exact (addressOf_le nnn).trans (by decide)
  | _ => exact hhigh.trans (by decide)

/-- The only address an effect pushes is pc (R102). -/
theorem Effect.returnBound {i : Instr} {s u : State} (he : Effect s i u) (hs : ReturnBound s)
    (hpc : s.pc.toNat ≤ 0x1000) : ReturnBound u := by
  cases he with
  | popped hp =>
    rw [State.pop_eq hp]
    exact hs
  | pushed nnn hp =>
    obtain ⟨hsp, rfl⟩ := State.push_eq_some.1 hp
    intro k
    show ((s.stack.set s.sp.val s.pc)[k.val]).toNat ≤ 0x1000
    rw [Vector.getElem_set]
    split
    · exact hpc
    · exact hs k
  | _ => exact hs

/-! ## The invariant of a Step -/

/-- A report records its own status (R188). -/
theorem State.report_recorded (s : State) (o : StepOut) :
    (s.report o).out.status ≠ .ok → (s.report o).firstNonOk ≠ none := by
  intro h hnone
  rw [State.report_firstNonOk, Option.or_eq_none_iff, Status.nonOk_eq_none] at hnone
  exact h hnone.2

/-- The invariant survives a report. -/
theorem State.Inv.report {s : State} (hs : s.Inv) (o : StepOut) : (s.report o).Inv :=
  ⟨hs.memoryCanonical, hs.fontIntact, hs.pcBound, hs.returnBound, s.report_recorded o⟩

/-- The invariant says nothing of the timers, the host's latches and the model's inputs. -/
theorem State.Inv.withLatches {s : State} (hs : s.Inv) (dt st : Byte) (p : Bool) (k : BitVec 16) (r : Byte) (n : Nat)
    (es : List (List InputEvent)) :
    ({ s with dt := dt, st := st, playAudio := p, keypad := k, rnd := r, draws := n, inputs := es } : State).Inv :=
  ⟨hs.memoryCanonical, hs.fontIntact, hs.pcBound, hs.returnBound, hs.statusRecorded⟩

/-- Where bytes are fetched the advance of pc does not wrap (R71). -/
theorem advanced_pc {a : Word} (h : a.toNat < 4095) : (a + 2).toNat = a.toNat + 2 := by bv_omega

theorem State.Inv.advanced {s : State} (hs : s.Inv) (h : s.pc.toNat < 4095) :
    ({ s with pc := s.pc + 2 } : State).Inv :=
  ⟨hs.memoryCanonical, hs.fontIntact, by simp only [advanced_pc h]; omega, hs.returnBound, hs.statusRecorded⟩

/-- An instruction keeps the invariant from every pc that a fetch leads to. -/
theorem exec_keeps_inv {i : Instr} {s t : State} (hs : s.Inv) (hlow : 2 ≤ s.pc.toNat) (hhigh : s.pc.toNat ≤ 0x1000)
    (h : exec i s = .next t) : t.Inv := by
  obtain ⟨u, o, rfl, he⟩ := effect_of_exec h
  refine ⟨he.memory_wf hs.memoryCanonical, fun a => ?_, he.pc_le hs.returnBound hlow hhigh,
    he.returnBound hs.returnBound hhigh, u.report_recorded o⟩
  rw [State.report_memory, State.report_config, he.read_font a.isLt, he.config]
  exact hs.fontIntact a

theorem stepWith_keeps_inv {rnd : Byte} {s t : State} (hs : s.Inv) (h : stepWith rnd s = .next t) : t.Inv := by
  have hr : ({ s with rnd := rnd } : State).Inv := hs.withLatches _ _ _ _ rnd _ _
  obtain ⟨-, rfl⟩ | ⟨-, rfl⟩ | ⟨hpc, i, -, h⟩ | ⟨hpc, e, -, rfl⟩ := stepWith_cases h
  · exact hr.report _
  · exact hr.report _
  · have hpc' := advanced_pc hpc
    exact exec_keeps_inv (hr.advanced hpc) (by simp only [hpc']; omega) (by simp only [hpc']; omega) h
  · exact (hr.advanced hpc).report _

theorem State.Inv.takeInputs {s : State} (hs : s.Inv) : s.takeInputs.Inv := by
  rw [State.takeInputs_eq]
  exact hs.withLatches _ _ _ _ _ _ _

/-- Settles O56: the host's events and the draw leave the invariant alone, and the Step keeps it. -/
theorem everyStepKeepsTheInvariant : Obligations.EveryStepKeepsTheInvariant := by
  intro s t hs h
  have hu : s.takeInputs.draw.Inv := hs.takeInputs.withLatches _ _ _ _ _ _ _
  exact stepWith_keeps_inv hu h

/-! ## The invariant of the other events -/

theorem State.Inv.input {s : State} (hs : s.Inv) (e : InputEvent) : (s.input e).Inv := by
  rw [State.input_eq]
  exact hs.withLatches _ _ _ _ _ _ _

/-- A Reset makes the invariant hold from any state. -/
theorem State.resetEvent_inv (s : State) : s.resetEvent.Inv where
  memoryCanonical := fontMemory_wf s.config.font
  fontIntact := fontMemory_read_font s.config.font
  pcBound := by rw [show s.resetEvent.pc = 0x200 from rfl]; decide
  returnBound := fun k => by simp [State.resetEvent, State.resetWith, State.reset]
  statusRecorded := fun h => absurd rfl h

/-- A Load writes above the font and below 4096 (R202). -/
theorem State.Inv.load {s t : State} {bytes : List Byte} (hs : s.Inv) (h : s.load bytes = .ok t) : t.Inv := by
  obtain ⟨hfits, rfl⟩ := State.load_eq_ok.1 h
  refine ⟨Memory.wf_writeBlock hs.memoryCanonical _ _ hfits, fun a => ?_, hs.pcBound, hs.returnBound,
    hs.statusRecorded⟩
  have ha : a.val < 0x200 := a.isLt.trans (by decide)
  exact (Memory.read_writeBlock_outside _ _ _ _ (.inl ha)).trans (hs.fontIntact a)

/-- Every move of a session: a Reset, a Load after it that fits or not, a host event or a Step of the running machine
(R203). -/
theorem Session.apply_cases {p q : Session} {e : Event} (h : p.apply e = some q) :
    q = ⟨.fresh, p.state.resetEvent⟩ ∨
    (p.phase = .fresh ∧ ∃ bytes t, p.state.load bytes = .ok t ∧ q = ⟨.running, t⟩) ∨
    q = ⟨.off, p.state⟩ ∨
    (p.phase = .running ∧ ∃ i, q = ⟨.running, p.state.input i⟩) ∨
    (p.phase = .running ∧ ∃ rnd t, stepWith rnd p.state = .next t ∧ q = ⟨.running, t⟩) := by
  obtain ⟨phase, s⟩ := p
  cases e with
  | reset =>
    cases h
    exact .inl rfl
  | load bytes =>
    cases phase with
    | fresh =>
      rcases hl : s.load bytes with t | _
      · simp only [Session.apply, hl, Option.some.injEq] at h
        exact .inr (.inl ⟨rfl, bytes, t, hl, h.symm⟩)
      · simp only [Session.apply, hl, Option.some.injEq] at h
        exact .inr (.inr (.inl h.symm))
    | off => cases h
    | running => cases h
  | input i =>
    cases phase with
    | running =>
      cases h
      exact .inr (.inr (.inr (.inl ⟨rfl, i, rfl⟩)))
    | off => cases h
    | fresh => cases h
  | step rnd =>
    cases phase with
    | running =>
      rcases ht : stepWith rnd s with t | f | r
      · simp only [Session.apply, ht, Option.some.injEq] at h
        exact .inr (.inr (.inr (.inr ⟨rfl, rnd, t, ht, h.symm⟩)))
      · simp [Session.apply, ht] at h
      · simp [Session.apply, ht] at h
    | off => cases h
    | fresh => cases h

/-- The invariant of a session: the machine meets its own unless it is off. -/
def Session.Inv (p : Session) : Prop := p.phase ≠ .off → p.state.Inv

theorem Session.Inv.apply {p q : Session} {e : Event} (hp : p.Inv) (h : p.apply e = some q) : q.Inv := by
  intro hq
  obtain rfl | ⟨hphase, bytes, t, hl, rfl⟩ | rfl | ⟨hphase, i, rfl⟩ | ⟨hphase, rnd, t, ht, rfl⟩ :=
    Session.apply_cases h
  · exact p.state.resetEvent_inv
  · exact (hp (by simp [hphase])).load hl
  · exact absurd rfl hq
  · exact (hp (by simp [hphase])).input i
  · exact stepWith_keeps_inv (hp (by simp [hphase])) ht

/-- Settles O58: the session's invariant, spelled out. -/
theorem everyEventKeepsTheInvariant : Obligations.EveryEventKeepsTheInvariant :=
  fun _ _ _ hp h => Session.Inv.apply hp h

theorem Session.Inv.applyAll {p q : Session} {events : List Event} (hp : p.Inv) (h : p.applyAll events = some q) :
    q.Inv := by
  induction events generalizing p with
  | nil =>
    cases h
    exact hp
  | cons e es ih =>
    rcases he : p.apply e with _ | r
    · simp [Session.applyAll, he] at h
    · rw [Session.applyAll, he] at h
      exact ih (hp.apply he) h

/-- Every Step answers a next state (R70, R170). -/
theorem stepWith_next (rnd : Byte) (s : State) : ∃ t, stepWith rnd s = .next t := by
  rcases hf : ({ s with rnd := rnd } : State).fetch with _ | addr | ⟨hi, lo⟩
  · exact ⟨_, by simp only [stepWith, hf]; rfl⟩
  · exact ⟨_, by simp only [stepWith, hf]; rfl⟩
  · rcases hd : decode [hi, lo] with e | ⟨i, rest⟩
    · exact ⟨_, by simp only [stepWith, hf, hd]; rfl⟩
    · obtain ⟨u, o, h, -⟩ := exec_effect i ({ s with rnd := rnd } : State).advance
      exact ⟨_, by simp only [stepWith, hf, hd]; exact h⟩

/-- A running machine always goes on (R203). -/
theorem Session.running_goes_on {p : Session} (hp : p.phase = .running) :
    (∀ rnd, (p.apply (.step rnd)).isSome) ∧ ∀ e, (p.apply (.input e)).isSome := by
  obtain ⟨phase, s⟩ := p
  cases hp
  refine ⟨fun rnd => ?_, fun e => rfl⟩
  obtain ⟨t, ht⟩ := stepWith_next rnd s
  simp [Session.apply, ht]

/-- Settles O57: from power on, where the machine is off, by induction on the events. -/
theorem everyLegalSessionKeepsTheInvariant : Obligations.EveryLegalSessionKeepsTheInvariant := by
  intro c events p h
  have hoff : (Session.powerOn c).Inv := fun hne => absurd rfl hne
  exact ⟨hoff.applyAll h, Session.running_goes_on⟩

/-! ## Host events and Reset -/

theorem State.setKeys_unchanged (s : State) (k : BitVec 16) : Unchanged [] [.keypad] s (s.setKeys k) := by
  refine ⟨fun _ _ => rfl, fun p hp => ?_⟩
  cases p with
  | keypad => exact absurd (List.mem_singleton.2 rfl) hp
  | memory => exact fun _ => rfl
  | _ => rfl

theorem State.ackAudio_unchanged (s : State) : Unchanged [] [.playAudio] s s.ackAudio := by
  refine ⟨fun _ _ => rfl, fun p hp => ?_⟩
  cases p with
  | playAudio => exact absurd (List.mem_singleton.2 rfl) hp
  | memory => exact fun _ => rfl
  | _ => rfl

/-- Settles O52: each event writes its latch, and the two frames hold part by part. -/
theorem hostEventsWriteTheirLatchAlone : Obligations.HostEventsWriteTheirLatchAlone :=
  fun s k => ⟨fun _ => rfl, s.setKeys_unchanged k, rfl, s.ackAudio_unchanged, fun _ _ => rfl, rfl, rfl⟩

/-- Settles O53: memory by the laws of the font's block, every other part by the table itself. -/
theorem resetLeavesEveryValueOfTheTable : Obligations.ResetLeavesEveryValueOfTheTable := by
  rintro s t rfl
  have hv : s.resetEvent.v = Vector.replicate 16 0 := rfl
  have hstack : s.resetEvent.stack = Vector.replicate 16 0 := rfl
  have hkeypad : s.resetEvent.keypad = 0 := rfl
  have hmemory : s.resetEvent.memory = fontMemory s.config.font := rfl
  refine ⟨fun r => ?_, rfl, rfl, rfl, fun k => ?_, rfl, rfl, rfl, fun k => ?_, Display.pixel_clear,
    fun a => ?_, fun a ha _ => ?_⟩
  · simp [State.reg, hv]
  · simp [hstack]
  · simp [State.keyDown, hkeypad]
  · rw [hmemory]
    exact fontMemory_read_font _ a
  · rw [hmemory]
    exact fontMemory_read_above _ a ha

/-- Settles O55: the fixed reset state, whose memory lists no cell. -/
theorem resetMeetsTheInvariant : Obligations.ResetMeetsTheInvariant where
  memoryCanonical := Memory.wf_nil
  fontIntact := by decide
  pcBound := by decide
  returnBound := by decide
  statusRecorded := fun h => absurd rfl h

end Sys2Proof.Machine

/-! PROOFS, family 20_memory.md: no Step writes the font, and what FX55 stores is what a fetch finds. -/

namespace Sys2Proof.Machine

/-- Settles O39: an executed instruction reaches no byte of the font, and every other Step leaves memory alone. -/
theorem fontIsImmutable : Obligations.FontIsImmutable := by
  intro rnd s t a h ha
  obtain ⟨-, rfl⟩ | ⟨-, rfl⟩ | ⟨-, i, -, hexec⟩ | ⟨-, e, -, rfl⟩ := stepWith_cases h
  · rfl
  · rfl
  · obtain ⟨u, o, rfl, he⟩ := effect_of_exec hexec
    exact he.read_font (Nat.lt_succ_of_le ha)
  · rfl

/-! ## What FX55 stores -/

/-- An FX55 that ends with status Ok passed the range check and stored V0 to VX (R144). -/
theorem exec_storeRegs_eq_of_ok {s t : State} {x : Reg} (h : exec (.storeRegs x) s = .next t)
    (hok : t.out.status = .ok) :
    (∀ k, k < x.val + 1 → WriteOk (s.effective k)) ∧ t = (s.storeAtI (s.regsThrough x)).finish := by
  rcases hb : s.badWrite (x.val + 1) with _ | a
  · rw [exec_storeRegs_of_writable hb] at h
    cases h
    exact ⟨State.badWrite_eq_none.1 hb, rfl⟩
  · rw [exec_storeRegs_of_bad hb] at h
    cases h
    cases hok

/-- FX55 leaves V[R] at I + R for every R up to X (R144). -/
theorem State.read_storeAtI_regsThrough (s : State) {x r : Reg} (hr : r.val ≤ x.val) :
    (s.storeAtI (s.regsThrough x)).memory.read (s.effective r.val) = s.reg r := by
  have hlen : r.val < (s.regsThrough x).length := by
    rw [regsThrough_length]
    exact Nat.lt_succ_of_le hr
  have hread := Memory.read_writeBlock_inside s.memory (s.effective 0) r.val (s.regsThrough x) hlen
  have hreg : (s.regsThrough x)[r.val] = s.reg r := by simp [State.regsThrough, State.reg]
  exact hread.trans hreg

/-- Settles O45: both bytes of the next word are stored registers, and the range check keeps them below 4096, so that
pc can be fetched. -/
theorem storeIsSeenByTheNextFetch : Obligations.StoreIsSeenByTheNextFetch := by
  intro s t x j k h hok hkj hkx hpc
  obtain ⟨hwritable, rfl⟩ := exec_storeRegs_eq_of_ok h hok
  have hnext : s.effective k.val = s.pc.toNat + 1 := by
    rw [← hpc, hkj]
    rfl
  have hhi := s.read_storeAtI_regsThrough (x := x) (r := j) (by omega)
  have hlo := s.read_storeAtI_regsThrough hkx
  rw [hpc] at hhi
  rw [hnext] at hlo
  have hbound : s.pc.toNat < 4095 := by
    obtain ⟨-, hlt⟩ := hwritable k.val (Nat.lt_succ_of_le hkx)
    omega
  constructor
  · exact (State.fetch_bytes (s := (s.storeAtI (s.regsThrough x)).finish) hbound).trans
      (congrArg₂ Fetched.bytes hhi hlo)
  · exact congrArg₂ wordOf hhi hlo

end Sys2Proof.Machine

/-! PROOFS, family 30_encoding.md: the decoder, the encoder and the opcode map against each other, the cycle of a Step,
and the runs that repeat one output. -/

namespace Sys2Proof

/-! ## Words and their fields (R75, R76): each format is its opcode, its fields and its fixed bits -/

/-- Two words are equal when their numbers are. -/
theorem ofNat_eq_word_iff {n : Nat} (hn : n < 65536) {op : Word} : BitVec.ofNat 16 n = op ↔ n = op.toNat := by
  rw [← BitVec.toNat_inj, BitVec.toNat_ofNat, Nat.mod_eq_of_lt hn]

theorem fieldX_eq_iff {op : Word} {x : Reg} : fieldX op = x ↔ op.toNat / 256 % 16 = x.val := by
  simp [fieldX, Fin.ext_iff]

theorem fieldY_eq_iff {op : Word} {y : Reg} : fieldY op = y ↔ op.toNat / 16 % 16 = y.val := by
  simp [fieldY, Fin.ext_iff]

theorem fieldN_eq_iff {op : Word} {n : BitVec 4} : fieldN op = n ↔ op.toNat % 16 = n.toNat := by
  simp [fieldN, ← BitVec.toNat_inj]

theorem fieldNN_eq_iff {op : Word} {nn : Byte} : fieldNN op = nn ↔ op.toNat % 256 = nn.toNat := by
  simp [fieldNN, ← BitVec.toNat_inj]

theorem fieldNNN_eq_iff {op : Word} {nnn : BitVec 12} : fieldNNN op = nnn ↔ op.toNat % 4096 = nnn.toNat := by
  simp [fieldNNN, ← BitVec.toNat_inj]

theorem formatNNN_eq_iff {k : Nat} (hk : k < 16) {nnn : BitVec 12} {op : Word} :
    formatNNN k nnn = op ↔ op.toNat / 4096 = k ∧ fieldNNN op = nnn := by
  have hnnn := nnn.isLt
  rw [formatNNN, ofNat_eq_word_iff (by omega), fieldNNN_eq_iff]
  omega

theorem formatXNN_eq_iff {k : Nat} (hk : k < 16) {x : Reg} {nn : Byte} {op : Word} :
    formatXNN k x nn = op ↔ op.toNat / 4096 = k ∧ fieldX op = x ∧ fieldNN op = nn := by
  have hx := x.isLt
  have hnn := nn.isLt
  rw [formatXNN, ofNat_eq_word_iff (by omega), fieldX_eq_iff, fieldNN_eq_iff]
  omega

theorem formatXYN_eq_iff {k low : Nat} (hk : k < 16) (hlow : low < 16) {x y : Reg} {op : Word} :
    formatXYN k x y low = op ↔ op.toNat / 4096 = k ∧ fieldX op = x ∧ fieldY op = y ∧ op.toNat % 16 = low := by
  have hx := x.isLt
  have hy := y.isLt
  rw [formatXYN, ofNat_eq_word_iff (by omega), fieldX_eq_iff, fieldY_eq_iff]
  omega

theorem formatXK_eq_iff {k low : Nat} (hk : k < 16) (hlow : low < 256) {x : Reg} {op : Word} :
    formatXK k x low = op ↔ op.toNat / 4096 = k ∧ fieldX op = x ∧ op.toNat % 256 = low := by
  have hx := x.isLt
  rw [formatXK, ofNat_eq_word_iff (by omega), fieldX_eq_iff]
  omega

/-! ## The decoder against the encoder (R74, R77, R78) -/

/-- The decoder reads an instruction from its word: the opcode and the fixed bits select the arm, and the arm takes the
fields. -/
theorem decodeWord_of_encodeWord {i : Instr} {op : Word} (h : encodeWord i = op) : decodeWord op = .ok i := by
  cases i with
  | cls | ret => subst h; rfl
  | jp nnn | call nnn | ldI nnn | jpV0 nnn =>
    obtain ⟨htop, rfl⟩ := (formatNNN_eq_iff (by decide)).1 h
    simp only [decodeWord, htop]
  | seImm x nn | sneImm x nn | ldImm x nn | addImm x nn | rnd x nn =>
    obtain ⟨htop, rfl, rfl⟩ := (formatXNN_eq_iff (by decide)).1 h
    simp only [decodeWord, htop]
  | seReg x y | sneReg x y =>
    obtain ⟨htop, rfl, rfl, hlow⟩ := (formatXYN_eq_iff (by decide) (by decide)).1 h
    simp only [decodeWord, htop, hlow, if_true]
  | ldReg x y | orReg x y | andReg x y | xorReg x y | addReg x y | subReg x y | shrReg x y | subnReg x y
  | shlReg x y =>
    obtain ⟨htop, rfl, rfl, hlow⟩ := (formatXYN_eq_iff (by decide) (by decide)).1 h
    simp only [decodeWord, htop, decodeFamily8, hlow]
  | drw x y n =>
    obtain ⟨htop, rfl, rfl, hlow⟩ := (formatXYN_eq_iff (by decide) n.isLt).1 h
    simp only [decodeWord, htop, fieldN_eq_iff.2 hlow]
  | skp x | sknp x =>
    obtain ⟨htop, rfl, hlow⟩ := (formatXK_eq_iff (by decide) (by decide)).1 h
    simp only [decodeWord, htop, decodeFamilyE, hlow]
  | ldVxDt x | ldVxK x | ldDtVx x | ldStVx x | addI x | ldF x | ldB x | storeRegs x | loadRegs x =>
    obtain ⟨htop, rfl, hlow⟩ := (formatXK_eq_iff (by decide) (by decide)).1 h
    simp only [decodeWord, htop, decodeFamilyF, hlow]

/-- A word's bytes, high byte first, make the word again (R56). -/
theorem wordOf_highByte_lowByte (w : Word) : wordOf (highByte w) (lowByte w) = w := by
  have hw := w.isLt
  apply BitVec.eq_of_toNat_eq
  simp only [wordOf, highByte, lowByte, BitVec.toNat_ofNat]
  omega

/-- Settles O4: the bytes make the word again, which is read from its opcode, its fixed bits and its fields. -/
theorem decodeInvertsEncode : Obligations.DecodeInvertsEncode := by
  intro i rest _
  have hword : decodeWord (wordOf (highByte (encodeWord i)) (lowByte (encodeWord i))) = .ok i :=
    decodeWord_of_encodeWord (wordOf_highByte_lowByte (encodeWord i)).symm
  simp only [encodeBytes, List.cons_append, List.nil_append, decode, hword]

theorem encodeWord_of_decodeFamily8 {op : Word} {i : Instr} (htop : op.toNat / 4096 = 8)
    (h : decodeFamily8 op = .ok i) : encodeWord i = op := by
  unfold decodeFamily8 at h
  split at h
  case h_10 => cases h
  all_goals
    obtain rfl := Except.ok.inj h
    exact (formatXYN_eq_iff (by decide) (by decide)).2 ⟨htop, rfl, rfl, ‹_›⟩

theorem encodeWord_of_decodeFamilyE {op : Word} {i : Instr} (htop : op.toNat / 4096 = 14)
    (h : decodeFamilyE op = .ok i) : encodeWord i = op := by
  unfold decodeFamilyE at h
  split at h
  case h_3 => cases h
  all_goals
    obtain rfl := Except.ok.inj h
    exact (formatXK_eq_iff (by decide) (by decide)).2 ⟨htop, rfl, ‹_›⟩

theorem encodeWord_of_decodeFamilyF {op : Word} {i : Instr} (htop : op.toNat / 4096 = 15)
    (h : decodeFamilyF op = .ok i) : encodeWord i = op := by
  unfold decodeFamilyF at h
  split at h
  case h_10 => cases h
  all_goals
    obtain rfl := Except.ok.inj h
    exact (formatXK_eq_iff (by decide) (by decide)).2 ⟨htop, rfl, ‹_›⟩

/-- The encoder writes a recognised word again: its opcode and fixed bits are those of the arm, its fields those the arm
took. Arm `h_k` of the decoder is the opcode k - 1. -/
theorem encodeWord_of_decodeWord {op : Word} {i : Instr} (h : decodeWord op = .ok i) : encodeWord i = op := by
  unfold decodeWord at h
  split at h
  case h_1 =>
    split at h
    · next h0 => cases h; exact h0.symm
    · split at h
      · next h0 => cases h; exact h0.symm
      · cases h
  case h_6 | h_10 =>
    split at h
    · next hlow => cases h; exact (formatXYN_eq_iff (by decide) (by decide)).2 ⟨‹_›, rfl, rfl, hlow⟩
    · cases h
  case h_9 => exact encodeWord_of_decodeFamily8 ‹_› h
  case h_14 => cases h; exact (formatXYN_eq_iff (by decide) (fieldN op).isLt).2 ⟨‹_›, rfl, rfl, fieldN_eq_iff.1 rfl⟩
  case h_15 => exact encodeWord_of_decodeFamilyE ‹_› h
  case h_16 =>
    have hop := op.isLt
    simp only [imp_false] at *
    exact encodeWord_of_decodeFamilyF (by omega) h
  case h_2 | h_3 | h_11 | h_12 => cases h; exact (formatNNN_eq_iff (by decide)).2 ⟨‹_›, rfl⟩
  case h_4 | h_5 | h_7 | h_8 | h_13 => cases h; exact (formatXNN_eq_iff (by decide)).2 ⟨‹_›, rfl, rfl⟩

theorem decodeWord_eq_ok_iff {op : Word} {i : Instr} : decodeWord op = .ok i ↔ encodeWord i = op :=
  ⟨encodeWord_of_decodeWord, decodeWord_of_encodeWord⟩

/-- Settles O5: arm by arm of the decoder, by `encodeWord_of_decodeWord`. -/
theorem encodeInvertsDecode : Obligations.EncodeInvertsDecode := fun _ _ => encodeWord_of_decodeWord

/-! ## The refused words (R79) -/

theorem decodeFamily8_error {op : Word} {e : DecodeReject} (h : decodeFamily8 op = .error e) :
    e = .family8 ∧ wfFamily8 op.toNat = false := by
  unfold decodeFamily8 at h
  split at h
  case h_10 =>
    refine ⟨(Except.error.inj h).symm, ?_⟩
    have hlow : op.toNat % 16 ∈ [0x8, 0x9, 0xA, 0xB, 0xC, 0xD, 0xF] := by
      simp only [imp_false] at *
      simp only [List.mem_cons, List.not_mem_nil, or_false]
      omega
    simp only [wfFamily8, Bool.not_eq_false', List.contains_iff_mem, hlow]
  all_goals cases h

theorem decodeFamilyE_error {op : Word} {e : DecodeReject} (h : decodeFamilyE op = .error e) :
    e = .familyE ∧ wfFamilyE op.toNat = false := by
  unfold decodeFamilyE at h
  split at h
  case h_3 => simp_all [wfFamilyE]
  all_goals cases h

theorem decodeFamilyF_error {op : Word} {e : DecodeReject} (h : decodeFamilyF op = .error e) :
    e = .familyF ∧ wfFamilyF op.toNat = false := by
  unfold decodeFamilyF at h
  split at h
  case h_10 => simp_all [wfFamilyF]
  all_goals cases h

/-- Where no arm takes the word, R79 refuses it, and the refusal names its family. -/
theorem refused_of_decodeWord_error {op : Word} {e : DecodeReject} (h : decodeWord op = .error e) :
    recognisedWord op = false ∧
    (e = .family0 ∧ op.toNat / 4096 = 0x0 ∨ e = .family5 ∧ op.toNat / 4096 = 0x5 ∨
      e = .family8 ∧ op.toNat / 4096 = 0x8 ∨ e = .family9 ∧ op.toNat / 4096 = 0x9 ∨
      e = .familyE ∧ op.toNat / 4096 = 0xE ∨ e = .familyF ∧ op.toNat / 4096 = 0xF) := by
  unfold decodeWord at h
  split at h
  case h_1 htop =>
    split at h
    · cases h
    · split at h
      · cases h
      · next hcls hret =>
        cases h
        simp_all [recognisedWord, wfFamily0, ← BitVec.toNat_inj]
  case h_6 htop | h_10 htop =>
    split at h
    · cases h
    · next hlow =>
      cases h
      simp [recognisedWord, wfFamily59, htop, hlow]
  case h_9 htop =>
    obtain ⟨rfl, hwf⟩ := decodeFamily8_error h
    simp [recognisedWord, htop, hwf]
  case h_15 htop =>
    obtain ⟨rfl, hwf⟩ := decodeFamilyE_error h
    simp [recognisedWord, htop, hwf]
  case h_16 =>
    have htop : op.toNat / 4096 = 15 := by
      have hop := op.isLt
      simp only [imp_false] at *
      omega
    obtain ⟨rfl, hwf⟩ := decodeFamilyF_error h
    simp [recognisedWord, htop, hwf]
  all_goals cases h

theorem recognisedWord_encodeWord (i : Instr) : recognisedWord (encodeWord i) = true := by
  cases i with
  | cls => exact Laws.RecognisedEncoding.cls
  | ret => exact Laws.RecognisedEncoding.ret
  | jp nnn | call nnn | ldI nnn | jpV0 nnn => exact Laws.RecognisedEncoding.formatNNN_recognised (by decide) nnn
  | seImm x nn | sneImm x nn | ldImm x nn | addImm x nn | rnd x nn =>
    exact Laws.RecognisedEncoding.formatXNN_recognised (by decide) x nn
  | seReg x y | sneReg x y | ldReg x y | orReg x y | andReg x y | xorReg x y | addReg x y | subReg x y
  | shrReg x y | subnReg x y | shlReg x y =>
    exact Laws.RecognisedEncoding.formatXYN_recognised (by decide) x y (by decide)
  | drw x y n => exact Laws.RecognisedEncoding.drw x y n
  | skp x | sknp x | ldVxDt x | ldVxK x | ldDtVx x | ldStVx x | addI x | ldF x | ldB x | storeRegs x
  | loadRegs x => exact Laws.RecognisedEncoding.formatXK_recognised (by decide) x

/-- Settles O7: a refused word is named by its family, and a recognised one is the word of an instruction. -/
theorem unrecognisedWordsAreTheTablesOnes : Obligations.UnrecognisedWordsAreTheTablesOnes := by
  intro op
  rcases h : decodeWord op with e | i
  · obtain ⟨hrefused, hfamily⟩ := refused_of_decodeWord_error h
    constructor
    · simp [hrefused]
    · intro _
      simpa using hfamily
  · have hrec : recognisedWord op = true := decodeWord_eq_ok_iff.1 h ▸ recognisedWord_encodeWord i
    simp [hrec]

/-! ## The opcode map (R78): each mask asks for the opcode and the fixed bits of one format -/

/-- Two words are equal when their nibbles are. -/
theorem word_eq_iff_nibbles {v w : Word} :
    v = w ↔ v.toNat / 4096 = w.toNat / 4096 ∧ v.toNat / 256 % 16 = w.toNat / 256 % 16 ∧
      v.toNat / 16 % 16 = w.toNat / 16 % 16 ∧ v.toNat % 16 = w.toNat % 16 := by
  rw [← BitVec.toNat_inj]
  omega

/-- A row compares nibble by nibble. -/
theorem rowMatches_iff_nibbles {op mask m : Word} :
    rowMatches op (mask, m) = true ↔
      (op.toNat / 4096 &&& mask.toNat / 4096) = m.toNat / 4096 ∧
      (op.toNat / 256 % 16 &&& mask.toNat / 256 % 16) = m.toNat / 256 % 16 ∧
      (op.toNat / 16 % 16 &&& mask.toNat / 16 % 16) = m.toNat / 16 % 16 ∧
      (op.toNat % 16 &&& mask.toNat % 16) = m.toNat % 16 := by
  have h12 : (op.toNat &&& mask.toNat) / 4096 = _ := Nat.and_div_two_pow (n := 12)
  have h8 : (op.toNat &&& mask.toNat) / 256 = _ := Nat.and_div_two_pow (n := 8)
  have h4 : (op.toNat &&& mask.toNat) / 16 = _ := Nat.and_div_two_pow (n := 4)
  have hmod : ∀ a b : Nat, (a &&& b) % 16 = (a % 16 &&& b % 16) := fun a b => Nat.and_mod_two_pow (n := 4)
  rw [rowMatches, beq_iff_eq, word_eq_iff_nibbles, BitVec.toNat_and, h12, h8, h4, hmod, hmod, hmod]

/-- A mask nibble 0xF asks for the word's nibble. -/
theorem and_fifteen (n : Nat) : n &&& 15 = n % 16 := Nat.and_two_pow_sub_one_eq_mod n 4

/-- Mask 0xF000 asks for the opcode. -/
theorem rowMatches_F000 {op m : Word} (hm : m.toNat % 4096 = 0) :
    rowMatches op (0xF000#16, m) = true ↔ op.toNat / 4096 = m.toNat / 4096 := by
  have hop := op.isLt
  simp only [rowMatches_iff_nibbles, BitVec.toNat_ofNat, Nat.reducePow, Nat.reduceMod, Nat.reduceDiv, and_fifteen,
    Nat.and_zero]
  omega

/-- Mask 0xF00F asks for the opcode and the low nibble. -/
theorem rowMatches_F00F {op m : Word} (hm : m.toNat / 16 % 256 = 0) :
    rowMatches op (0xF00F#16, m) = true ↔ op.toNat / 4096 = m.toNat / 4096 ∧ op.toNat % 16 = m.toNat % 16 := by
  have hop := op.isLt
  simp only [rowMatches_iff_nibbles, BitVec.toNat_ofNat, Nat.reducePow, Nat.reduceMod, Nat.reduceDiv, and_fifteen,
    Nat.and_zero]
  omega

/-- Mask 0xF0FF asks for the opcode and the low byte. -/
theorem rowMatches_F0FF {op m : Word} (hm : m.toNat / 256 % 16 = 0) :
    rowMatches op (0xF0FF#16, m) = true ↔ op.toNat / 4096 = m.toNat / 4096 ∧ op.toNat % 256 = m.toNat % 256 := by
  have hop := op.isLt
  simp only [rowMatches_iff_nibbles, BitVec.toNat_ofNat, Nat.reducePow, Nat.reduceMod, Nat.reduceDiv, and_fifteen,
    Nat.and_zero]
  omega

/-- Mask 0xFFFF asks for the whole word. -/
theorem rowMatches_FFFF {op m : Word} : rowMatches op (0xFFFF#16, m) = true ↔ op = m := by
  rw [rowMatches, beq_iff_eq, show (0xFFFF#16 : Word) = BitVec.allOnes 16 from rfl, BitVec.and_allOnes]

/-- The word of an instruction selects its row: the row asks for bits the format fixes. -/
theorem rowMatches_of_encodeWord {i : Instr} {op : Word} {row : Word × Word} (h : encodeWord i = op)
    (hrow : opcodeMap[i.row]? = some row) : rowMatches op row = true := by
  cases i with
  | cls | ret =>
    cases hrow
    exact rowMatches_FFFF.2 h.symm
  | jp nnn | call nnn | ldI nnn | jpV0 nnn =>
    cases hrow
    obtain ⟨htop, -⟩ := (formatNNN_eq_iff (by decide)).1 h
    exact (rowMatches_F000 (by decide)).2 htop
  | seImm x nn | sneImm x nn | ldImm x nn | addImm x nn | rnd x nn =>
    cases hrow
    obtain ⟨htop, -, -⟩ := (formatXNN_eq_iff (by decide)).1 h
    exact (rowMatches_F000 (by decide)).2 htop
  | drw x y n =>
    cases hrow
    obtain ⟨htop, -, -, -⟩ := (formatXYN_eq_iff (by decide) n.isLt).1 h
    exact (rowMatches_F000 (by decide)).2 htop
  | seReg x y | sneReg x y | ldReg x y | orReg x y | andReg x y | xorReg x y | addReg x y | subReg x y
  | shrReg x y | subnReg x y | shlReg x y =>
    cases hrow
    obtain ⟨htop, -, -, hlow⟩ := (formatXYN_eq_iff (by decide) (by decide)).1 h
    exact (rowMatches_F00F (by decide)).2 ⟨htop, hlow⟩
  | skp x | sknp x | ldVxDt x | ldVxK x | ldDtVx x | ldStVx x | addI x | ldF x | ldB x | storeRegs x
  | loadRegs x =>
    cases hrow
    obtain ⟨htop, -, hlow⟩ := (formatXK_eq_iff (by decide) (by decide)).1 h
    exact (rowMatches_F0FF (by decide)).2 ⟨htop, hlow⟩

/-- R78 read from its rows: the instruction of row `k`, counted from 0, with the word's own fields;
every `k` from 33 on stands for the last row. -/
def instrOfRow (op : Word) : Nat → Instr
  | 0 => .cls
  | 1 => .ret
  | 2 => .jp (fieldNNN op)
  | 3 => .call (fieldNNN op)
  | 4 => .seImm (fieldX op) (fieldNN op)
  | 5 => .sneImm (fieldX op) (fieldNN op)
  | 6 => .seReg (fieldX op) (fieldY op)
  | 7 => .ldImm (fieldX op) (fieldNN op)
  | 8 => .addImm (fieldX op) (fieldNN op)
  | 9 => .ldReg (fieldX op) (fieldY op)
  | 10 => .orReg (fieldX op) (fieldY op)
  | 11 => .andReg (fieldX op) (fieldY op)
  | 12 => .xorReg (fieldX op) (fieldY op)
  | 13 => .addReg (fieldX op) (fieldY op)
  | 14 => .subReg (fieldX op) (fieldY op)
  | 15 => .shrReg (fieldX op) (fieldY op)
  | 16 => .subnReg (fieldX op) (fieldY op)
  | 17 => .shlReg (fieldX op) (fieldY op)
  | 18 => .sneReg (fieldX op) (fieldY op)
  | 19 => .ldI (fieldNNN op)
  | 20 => .jpV0 (fieldNNN op)
  | 21 => .rnd (fieldX op) (fieldNN op)
  | 22 => .drw (fieldX op) (fieldY op) (fieldN op)
  | 23 => .skp (fieldX op)
  | 24 => .sknp (fieldX op)
  | 25 => .ldVxDt (fieldX op)
  | 26 => .ldVxK (fieldX op)
  | 27 => .ldDtVx (fieldX op)
  | 28 => .ldStVx (fieldX op)
  | 29 => .addI (fieldX op)
  | 30 => .ldF (fieldX op)
  | 31 => .ldB (fieldX op)
  | 32 => .storeRegs (fieldX op)
  | _ => .loadRegs (fieldX op)

theorem instrOfRow_row (op : Word) {k : Nat} (hk : k < 34) : (instrOfRow op k).row = k := by
  interval_cases k <;> rfl

/-- A word that selects a row is the word of that row's instruction with the word's own fields. -/
theorem encodeWord_instrOfRow {op : Word} {k : Nat} {row : Word × Word} (hrow : opcodeMap[k]? = some row)
    (h : rowMatches op row = true) : encodeWord (instrOfRow op k) = op := by
  match k with
  | 0 | 1 =>
    cases hrow
    exact (rowMatches_FFFF.1 h).symm
  | 2 | 3 | 19 | 20 =>
    cases hrow
    exact (formatNNN_eq_iff (by decide)).2 ⟨(rowMatches_F000 (by decide)).1 h, rfl⟩
  | 4 | 5 | 7 | 8 | 21 =>
    cases hrow
    exact (formatXNN_eq_iff (by decide)).2 ⟨(rowMatches_F000 (by decide)).1 h, rfl, rfl⟩
  | 22 =>
    cases hrow
    have htop := (rowMatches_F000 (by decide)).1 h
    exact (formatXYN_eq_iff (by decide) (fieldN op).isLt).2 ⟨htop, rfl, rfl, fieldN_eq_iff.1 rfl⟩
  | 6 | 9 | 10 | 11 | 12 | 13 | 14 | 15 | 16 | 17 | 18 =>
    cases hrow
    obtain ⟨htop, hlow⟩ := (rowMatches_F00F (by decide)).1 h
    exact (formatXYN_eq_iff (by decide) (by decide)).2 ⟨htop, rfl, rfl, hlow⟩
  | 23 | 24 | 25 | 26 | 27 | 28 | 29 | 30 | 31 | 32 | 33 =>
    cases hrow
    obtain ⟨htop, hlow⟩ := (rowMatches_F0FF (by decide)).1 h
    exact (formatXK_eq_iff (by decide) (by decide)).2 ⟨htop, rfl, hlow⟩
  | k + 34 => cases hrow

/-- Settles O6: an instruction's word selects its row, and a word that selects a row is an instruction of it. -/
theorem decodeFollowsTheOpcodeMap : Obligations.DecodeFollowsTheOpcodeMap := by
  intro op k row hrow
  constructor
  · intro h
    have hk : k < 34 := (List.getElem?_eq_some_iff.1 hrow).1
    exact ⟨instrOfRow op k, decodeWord_of_encodeWord (encodeWord_instrOfRow hrow h), instrOfRow_row op hk⟩
  · rintro ⟨i, hi, rfl⟩
    exact rowMatches_of_encodeWord (encodeWord_of_decodeWord hi) hrow

/-- Settles O3: fifteen words, decoded. -/
theorem sampleWordsDecode : Obligations.SampleWordsDecode := by
  unfold Obligations.SampleWordsDecode
  decide

end Sys2Proof

namespace Sys2Proof.Machine

/-! ## The cycle of a Step (R70 to R73, R79) -/

/-- Past memory the core is halted (R72). -/
theorem stepWith_of_halted (rnd : Byte) {s : State} (h : 4096 ≤ s.pc.toNat) :
    stepWith rnd s = .next ({ s with rnd := rnd } : State).finishHalted := by
  have hf := State.fetch_halted (s := { s with rnd := rnd }) h
  simp only [stepWith, hf]

/-- At the last byte of memory the fetch faults (R73). -/
theorem stepWith_of_beyond (rnd : Byte) {s : State} (h : s.pc.toNat = 4095) :
    stepWith rnd s = .next (({ s with rnd := rnd } : State).raise (.addressFault 4096)) := by
  have hf := State.fetch_beyond (s := { s with rnd := rnd }) h
  simp only [stepWith, hf]

/-- A Step that only reports leaves all but the input byte. -/
theorem Unchanged.reported (s : State) (rnd : Byte) (o : StepOut) :
    Unchanged [] [.rnd] s (({ s with rnd := rnd } : State).report o) := by
  refine ⟨fun _ _ => rfl, fun p hp => ?_⟩
  cases p with
  | rnd => exact absurd (List.mem_singleton.2 rfl) hp
  | memory => exact fun _ => rfl
  | _ => rfl

/-- A Step that only advances pc and reports leaves all but pc and the input byte. -/
theorem Unchanged.advancedReported (s : State) (rnd : Byte) (o : StepOut) :
    Unchanged [] [.pc, .rnd] s (({ s with rnd := rnd, pc := s.pc + 2 } : State).report o) := by
  refine ⟨fun _ _ => rfl, fun p hp => ?_⟩
  cases p with
  | pc | rnd => exact absurd (by decide) hp
  | memory => exact fun _ => rfl
  | _ => rfl

/-- Settles O1: by the fetch, and where it finds a word by what the word decodes to. -/
theorem stepEventFollowsTheCycle : Obligations.StepEventFollowsTheCycle := by
  intro rnd s
  refine ⟨stepWith_next rnd s, fun h => ?_, fun h => ?_, fun h i hi => ?_, fun h e he => ?_⟩
  · exact ⟨_, stepWith_of_halted rnd h, .reported s rnd _, rfl, rfl⟩
  · exact ⟨_, stepWith_of_beyond rnd h, .reported s rnd _, rfl, rfl⟩
  · simp only [stepWith_of_bytes rnd s h, hi]
  · have hstep := stepWith_of_bytes rnd s h
    simp only [he] at hstep
    exact ⟨_, hstep, rfl, .advancedReported s rnd _, rfl, rfl⟩

/-- Settles O2: the Step event on the state after the events, with the draw counted. -/
theorem stepRunsTheDecodedInstruction : Obligations.StepRunsTheDecodedInstruction := by
  rintro s u i rfl hpc hi
  refine ⟨?_, fun h => ?_, fun events rest h => ?_⟩
  · have hdraw : decodeWord s.takeInputs.draw.wordAtPc = .ok i := hi
    have hstep := stepWith_of_bytes (Config.rnd s.takeInputs.draws) s.takeInputs.draw hpc
    simp only [hdraw] at hstep
    exact hstep
  · simp only [State.takeInputs, h]
  · simp only [State.takeInputs, h]

/-! ## Runs that only repeat one output (R72, R73) -/

theorem Part.same_refl (p : Part) (s : State) : p.same s s := by
  cases p with
  | memory => exact fun _ => rfl
  | _ => rfl

theorem Part.same_trans {p : Part} {s t u : State} (hst : p.same s t) (htu : p.same t u) : p.same s u := by
  cases p with
  | memory => exact fun a => (htu a).trans (hst a)
  | _ => exact htu.trans hst

theorem Unchanged.refl (regs : List Reg) (parts : List Part) (s : State) : Unchanged regs parts s s :=
  ⟨fun _ _ => rfl, fun p _ => p.same_refl s⟩

theorem Unchanged.trans {regs : List Reg} {parts : List Part} {s t u : State} (hst : Unchanged regs parts s t)
    (htu : Unchanged regs parts t u) : Unchanged regs parts s u :=
  ⟨fun r hr => (htu.1 r hr).trans (hst.1 r hr), fun p hp => Part.same_trans (hst.2 p hp) (htu.2 p hp)⟩

theorem Ends.trans {o : StepOut} {s t u : State} (hst : Ends o s t) (htu : Ends o t u) : Ends o s u := by
  obtain ⟨-, hfirst⟩ := hst
  obtain ⟨hout, hfirst'⟩ := htu
  refine ⟨hout, ?_⟩
  rw [hfirst', hfirst, Option.or_assoc, Option.or_self]

/-- Every step from a state with `P` leads to one with `P`, changes no part but `parts`, takes the
host's events of one Step, and puts out `o`. -/
def StepRepeats (P : State → Prop) (parts : List Part) (o : StepOut) : Prop :=
  ∀ s, P s → ∃ t, step s = .next t ∧ P t ∧ Unchanged [] parts s t ∧ HostActed 1 s t ∧ Ends o s t

/-- A step that repeats does so for ever: the induction on the number of steps, once. -/
theorem StepRepeats.run {P : State → Prop} {parts : List Part} {o : StepOut} (h : StepRepeats P parts o) (n : Nat)
    {s : State} (hs : P s) :
    ∃ t, Sys2Proof.core.run n s = .next t ∧ P t ∧ Unchanged [] parts s t ∧ HostActed n s t ∧
      (n = 0 ∧ t = s ∨ Ends o s t) := by
  induction n generalizing s with
  | zero => exact ⟨s, rfl, hs, .refl [] parts s, .zero s, .inl ⟨rfl, rfl⟩⟩
  | succ n ih =>
    obtain ⟨t, hst, ht, hframe, hacted, hends⟩ := h s hs
    obtain ⟨u, hrun, hu, hframe', hacted', hlast⟩ := ih ht
    refine ⟨u, (run_succ_of_step hst).trans hrun, hu, hframe.trans hframe', hacted.step hacted', .inr ?_⟩
    obtain ⟨-, rfl⟩ | hends' := hlast
    · exact hends
    · exact hends.trans hends'

/-- A step that only reports leaves what the host's events leave. -/
theorem reported_step_frame (s : State) (rnd : Byte) (o : StepOut) {t : State}
    (ht : t = ({ s.takeInputs.draw with rnd := rnd } : State).report o) :
    Unchanged [] hostParts s t ∧ HostActed 1 s t ∧ Ends o s t := by
  subst ht
  have hfirst : s.takeInputs.firstNonOk = s.firstNonOk := by
    obtain ⟨-, -, h⟩ := s.takeInputs_kept
    exact h
  refine ⟨⟨?_, fun p hp => ?_⟩, .one rfl rfl rfl rfl rfl, rfl, congrArg (·.or o.status.nonOk) hfirst⟩
  · rw [State.takeInputs_eq]
    exact fun _ _ => rfl
  · rw [State.takeInputs_eq]
    cases p with
    | dt | st | playAudio | keypad | rnd | draws | inputs => exact absurd (by decide) hp
    | memory => exact fun _ => rfl
    | _ => rfl

/-- The host's events and the draw leave pc, so a halted core stays halted. -/
theorem halted_repeats : StepRepeats State.halted hostParts { StepOut.quiet .ok with halted := true } := by
  intro s hs
  obtain ⟨hpc, -, -⟩ := s.takeInputs_kept
  have hu : s.takeInputs.draw.halted := by rwa [State.halted, State.draw_pc, hpc]
  exact ⟨_, stepWith_of_halted _ hu, hu, reported_step_frame s _ _ rfl⟩

/-- pc stays at 0xFFF, so the next Step finds the same fetch fault. -/
theorem fetchFault_repeats :
    StepRepeats (fun s => s.pc.toNat = 4095) hostParts (StepOut.quiet (.addressFault 4096)) := by
  intro s hs
  obtain ⟨hpc, -, -⟩ := s.takeInputs_kept
  have hu : s.takeInputs.draw.pc.toNat = 4095 := by rwa [State.draw_pc, hpc]
  exact ⟨_, stepWith_of_beyond _ hu, hu, reported_step_frame s _ _ rfl⟩

/-- Settles O46: the halted Step repeats, and its status Ok records nothing. -/
theorem haltedForever : Obligations.HaltedForever := by
  intro s n hs
  obtain ⟨t, hrun, -, hframe, hacted, hlast⟩ := halted_repeats.run n hs
  refine ⟨t, hrun, hframe, hacted, ?_⟩
  obtain ⟨rfl, rfl⟩ | ⟨hout, hfirst⟩ := hlast
  · exact ⟨rfl, fun h => absurd h (Nat.lt_irrefl 0)⟩
  · exact ⟨hfirst.trans Option.or_none, fun _ => hout⟩

/-- Settles O47: the fetch fault repeats, and its status is recorded. -/
theorem fetchFaultRepeatsForever : Obligations.FetchFaultRepeatsForever := by
  intro s n hs
  obtain ⟨t, hrun, -, hframe, hacted, hlast⟩ := fetchFault_repeats.run n hs
  refine ⟨t, hrun, hframe, hacted, fun hn => ?_⟩
  obtain ⟨rfl, rfl⟩ | ⟨hout, hfirst⟩ := hlast
  · exact absurd hn (Nat.lt_irrefl 0)
  · refine ⟨hout, fun hnone => ?_⟩
    rw [hfirst, Option.or_eq_none_iff, Status.nonOk_eq_none] at hnone
    obtain ⟨-, hok⟩ := hnone
    cases hok

end Sys2Proof.Machine

/-! PROOFS, family 40_flow.md: jumps, skips, calls and returns, a call with its return, and the parked core. -/

namespace Sys2Proof.Machine

/-! ## Frames of the operations that control transfer is made of -/

section Frames
variable {regs : List Reg} {parts : List Part} {s t : State}

/-- A report writes no register and no part. -/
theorem Unchanged.report (h : Unchanged regs parts s t) (o : StepOut) : Unchanged regs parts s (t.report o) := by
  obtain ⟨hreg, hpart⟩ := h
  refine ⟨hreg, fun p hp => ?_⟩
  cases p <;> exact hpart _ hp

/-- Setting pc stays within a frame that lists pc. -/
theorem Unchanged.setPc (h : Unchanged regs parts s t) (a : Word) (hpc : .pc ∈ parts) :
    Unchanged regs parts s (t.setPc a) := by
  obtain ⟨hreg, hpart⟩ := h
  refine ⟨hreg, fun p hp => ?_⟩
  cases p with
  | pc => exact absurd hpc hp
  | _ => exact hpart _ hp

/-- A push writes the stack and sp alone (R25). -/
theorem Unchanged.pushed {a : Word} (h : s.push a = some t) (hsp : .sp ∈ parts) (hstack : .stack ∈ parts) :
    Unchanged regs parts s t := by
  rw [State.push_eq h]
  refine ⟨fun _ _ => rfl, fun p hp => ?_⟩
  cases p with
  | sp => exact absurd hsp hp
  | stack => exact absurd hstack hp
  | memory => exact fun _ => rfl
  | _ => rfl

/-- A pop writes sp alone (R24, R25). -/
theorem Unchanged.popped {a : Word} (h : s.pop = some (a, t)) (hsp : .sp ∈ parts) : Unchanged regs parts s t := by
  rw [State.pop_eq h]
  refine ⟨fun _ _ => rfl, fun p hp => ?_⟩
  cases p with
  | sp => exact absurd hsp hp
  | memory => exact fun _ => rfl
  | _ => rfl

end Frames

/-! ## Jumps and skips: pc alone -/

/-- An instruction that only sets pc moves it there, leaves the rest and ends with Ok (R101, R103 to R107). -/
theorem exec_moves_pc {i : Instr} {s : State} {a : Word} (h : exec i s = .next (s.setPc a).finish) :
    ∃ t, exec i s = .next t ∧ t.pc = a ∧ Unchanged [] [.pc] s t ∧ EndsOk s t :=
  ⟨_, h, rfl, ((Unchanged.refl [] [.pc] s).setPc a (by decide)).report _, rfl, rfl⟩

/-- A skip sets pc, 2 further or where it is (R71 c). -/
theorem State.skipIf_eq_setPc (s : State) (c : Bool) : s.skipIf c = s.setPc (if c then s.pc + 2 else s.pc) := by
  cases c <;> rfl

/-- An instruction that skips on equal bytes (R104, R106). -/
theorem exec_skips_on_eq {i : Instr} {s : State} {b c : Byte} (h : exec i s = .next (s.skipIf (b == c)).finish) :
    ∃ t, exec i s = .next t ∧ t.pc = (if b = c then s.pc + 2 else s.pc) ∧ Unchanged [] [.pc] s t ∧ EndsOk s t := by
  simp only [State.skipIf_eq_setPc, beq_iff_eq] at h
  exact exec_moves_pc h

/-- An instruction that skips on different bytes (R105, R107). -/
theorem exec_skips_on_ne {i : Instr} {s : State} {b c : Byte} (h : exec i s = .next (s.skipIf (b != c)).finish) :
    ∃ t, exec i s = .next t ∧ t.pc = (if b = c then s.pc else s.pc + 2) ∧ Unchanged [] [.pc] s t ∧ EndsOk s t := by
  simp only [State.skipIf_eq_setPc, bne_iff_ne, ite_not] at h
  exact exec_moves_pc h

theorem addressOf_toNat (nnn : BitVec 12) : (addressOf nnn).toNat = nnn.toNat := by
  have := nnn.isLt
  simp only [addressOf, BitVec.toNat_ofNat]
  omega

/-- NNN + V0 fits the 16 bits of pc, so the sum of BNNN is exact (R103). -/
theorem jpV0_target_toNat (nnn : BitVec 12) (b : Byte) :
    (BitVec.ofNat 16 (nnn.toNat + b.toNat)).toNat = nnn.toNat + b.toNat := by
  have := nnn.isLt
  have := b.isLt
  simp only [BitVec.toNat_ofNat]
  omega

/-- In the families 5 and 9 a nonzero low nibble is refused (R79, R80). -/
theorem decodeWord_family59_refused {op : Word} (htop : op.toNat / 4096 = 5 ∨ op.toNat / 4096 = 9)
    (hlow : op.toNat % 16 ≠ 0) : ∃ e, decodeWord op = .error e := by
  rcases htop with htop | htop
  · exact ⟨.family5, by simp only [decodeWord, htop, hlow, if_false]⟩
  · exact ⟨.family9, by simp only [decodeWord, htop, hlow, if_false]⟩

/-- A word of format XYN with opcode 5 or 9 and N not 0 is refused. -/
theorem decodeWord_formatXYN_refused {k : Nat} (hk : k = 5 ∨ k = 9) (x y : Reg) {n : Fin 16} (hn : n ≠ 0) :
    ∃ e, decodeWord (formatXYN k x y n.val) = .error e := by
  obtain ⟨htop, -, -, hlow⟩ := (formatXYN_eq_iff (by omega) n.isLt).1 (rfl : formatXYN k x y n.val = _)
  refine decodeWord_family59_refused (by rwa [htop]) ?_
  rw [hlow]
  exact Fin.val_ne_zero_iff.2 hn

/-- Settles O9: a jump sets pc, and an address of 12 bits is exact. -/
theorem jumpGoesToNNN : Obligations.JumpGoesToNNN := by
  intro s nnn
  obtain ⟨t, hexec, hpc, hframe, hends⟩ := exec_moves_pc (i := .jp nnn) (s := s) rfl
  exact ⟨decodeWord_of_encodeWord rfl, t, hexec, hpc ▸ addressOf_toNat nnn, hframe, hends⟩

/-- Settles O11: a jump sets pc, and the sum passes no 16 bits. -/
theorem jumpPlusV0IsNotMasked : Obligations.JumpPlusV0IsNotMasked := by
  intro s nnn
  obtain ⟨t, hexec, hpc, hframe, hends⟩ := exec_moves_pc (i := .jpV0 nnn) (s := s) rfl
  exact ⟨decodeWord_of_encodeWord rfl, t, hexec, hpc ▸ jpV0_target_toNat nnn _, hframe, hends⟩

/-- Settles O12: the two skips on VX and NN. -/
theorem skipsComparingWithNN : Obligations.SkipsComparingWithNN := fun _ _ _ =>
  ⟨decodeWord_of_encodeWord rfl, decodeWord_of_encodeWord rfl, exec_skips_on_eq rfl, exec_skips_on_ne rfl⟩

/-- Settles O13: the two skips on VX and VY, and the refused words beside them. -/
theorem skipsComparingRegisters : Obligations.SkipsComparingRegisters := by
  intro s x y
  refine ⟨decodeWord_of_encodeWord rfl, decodeWord_of_encodeWord rfl, fun n hn => ?_, exec_skips_on_eq rfl,
    exec_skips_on_ne rfl⟩
  obtain ⟨e, he⟩ := decodeWord_formatXYN_refused (.inl rfl) x y hn
  obtain ⟨f, hf⟩ := decodeWord_formatXYN_refused (.inr rfl) x y hn
  exact ⟨e, f, he, hf⟩

/-! ## Calls and returns -/

/-- A return with an entry in use: pc is the top entry, and sp falls by one (R100). -/
theorem exec_ret_of_inUse {s : State} {k : Fin 16} (hk : s.sp.val = k.val + 1) :
    ∃ t, exec .ret s = .next t ∧ t.sp.val = k.val ∧ t.pc = s.stack[k.val] ∧ Unchanged [] [.pc, .sp] s t ∧
      EndsOk s t := by
  have hpop : s.pop = some (s.stack[s.sp.val - 1], _) := State.pop_eq_some.2 ⟨by omega, rfl, rfl⟩
  exact ⟨_, exec_ret_of_pop hpop, by simp [hk], by simp [hk],
    ((Unchanged.popped hpop (by decide)).setPc _ (by decide)).report _, rfl, rfl⟩

/-- Settles O8: a pop of the top entry, or the raised status alone. -/
theorem returnPopsTheStack : Obligations.ReturnPopsTheStack := fun s =>
  ⟨decodeWord_of_encodeWord rfl, fun _ hk => exec_ret_of_inUse hk, fun h0 =>
    ⟨_, exec_ret_of_empty (State.pop_eq_none.2 h0), (Unchanged.refl [] [] s).report _, rfl, rfl⟩⟩

/-- A call with an entry free: the entry at sp is the advanced pc, sp rises by one, and pc is NNN (R102). -/
theorem exec_call_of_free {s : State} (nnn : BitVec 12) {k : Fin 16} (hk : s.sp.val = k.val) :
    ∃ t, exec (.call nnn) s = .next t ∧ t.stack[k.val] = s.pc ∧
      (∀ j : Fin 16, j ≠ k → t.stack[j.val] = s.stack[j.val]) ∧ t.sp.val = k.val + 1 ∧ t.pc.toNat = nnn.toNat ∧
      Unchanged [] [.pc, .sp, .stack] s t ∧ EndsOk s t := by
  have hpush : s.push s.pc = some _ := State.push_eq_some.2 ⟨hk ▸ k.isLt, rfl⟩
  refine ⟨_, exec_call_of_push nnn hpush, ?_, fun j hj => ?_, congrArg (· + 1) hk, addressOf_toNat nnn,
    ((Unchanged.pushed hpush (by decide) (by decide)).setPc _ (by decide)).report _, rfl, rfl⟩
  · simp [hk]
  · have hne : k.val ≠ j.val := fun e => hj (Fin.ext e.symm)
    simp [hk, hne]

/-- Settles O10: a push of the advanced pc, or the raised status alone. -/
theorem callPushesTheReturnAddress : Obligations.CallPushesTheReturnAddress := fun s nnn =>
  ⟨decodeWord_of_encodeWord rfl, fun _ hk => exec_call_of_free nnn hk, fun h16 =>
    ⟨_, exec_call_of_full nnn (State.push_eq_none.2 h16), (Unchanged.refl [] [] s).report _, rfl, rfl⟩⟩

/-- Settles O43: the return pops the entry that the call pushed. -/
theorem callThenReturnComesBack : Obligations.CallThenReturnComesBack := by
  intro s t u nnn k hcall hk husp htop
  obtain ⟨t', hcall', hpushed, -, htsp, -, -, -⟩ := exec_call_of_free nnn hk
  obtain rfl : t = t' := Host.Outcome.next.inj (hcall.symm.trans hcall')
  obtain ⟨w, hret, hwsp, hwpc, -, hout, -⟩ := exec_ret_of_inUse (s := u) (husp ▸ htsp)
  exact ⟨w, hret, hwpc.trans (htop.trans hpushed), Fin.ext (hwsp.trans hk.symm), congrArg StepOut.status hout⟩

/-! ## The parked core (R109, R204) -/

/-- Parking looks at pc and memory alone. -/
theorem State.parked_of_same {s t : State} (hpc : t.pc = s.pc) (hmem : t.memory = s.memory) (h : s.parked) :
    t.parked := by
  simpa only [State.parked, State.wordAtPc, hpc, hmem] using h

/-- A parked core jumps to where it is: its Step only reports Ok. -/
theorem stepWith_of_parked (rnd : Byte) {s : State} (h : s.parked) :
    stepWith rnd s = .next (({ s with rnd := rnd } : State).report (StepOut.quiet .ok)) := by
  obtain ⟨hlt, nnn, hword, hself⟩ := h
  have htarget : addressOf nnn = s.pc := BitVec.eq_of_toNat_eq ((addressOf_toNat nnn).trans hself)
  rw [stepWith_of_bytes rnd s hlt, hword]
  simp only [exec, execJp, htarget]
  rfl

/-- The host's events, the draw and the Step leave pc and memory, so a parked core stays parked. -/
theorem parked_repeats : StepRepeats State.parked hostParts (StepOut.quiet .ok) := by
  intro s hs
  obtain ⟨hpc, hmem, -⟩ := s.takeInputs_kept
  have hu : s.takeInputs.draw.parked := State.parked_of_same hpc hmem hs
  exact ⟨_, stepWith_of_parked _ hu, State.parked_of_same rfl rfl hu, reported_step_frame s _ _ rfl⟩

/-- Settles O48: the jump to itself repeats, and its status Ok records nothing. -/
theorem parkedForever : Obligations.ParkedForever := by
  intro s n hs
  obtain ⟨t, hrun, ht, hframe, hacted, hlast⟩ := parked_repeats.run n hs
  refine ⟨t, hrun, hframe, hacted, ht, ?_⟩
  obtain ⟨rfl, rfl⟩ | ⟨hout, hfirst⟩ := hlast
  · exact ⟨rfl, fun h => absurd h (Nat.lt_irrefl 0)⟩
  · exact ⟨hfirst.trans Option.or_none, fun _ => hout⟩

end Sys2Proof.Machine

/-! PROOFS, family 41_alu.md: the register and ALU instructions, by the two shapes they have, one register written
(R120 to R125, R131) or one register and then the flag (R133). -/

namespace Sys2Proof.Machine

/-! ## Writing registers -/

/-- Writing a register stays within a frame that lists it. -/
theorem Unchanged.setReg {regs : List Reg} {parts : List Part} {s t : State} (h : Unchanged regs parts s t) {r : Reg}
    (b : Byte) (hr : r ∈ regs) : Unchanged regs parts s (t.setReg r b) := by
  obtain ⟨hreg, hpart⟩ := h
  refine ⟨fun q hq => ?_, fun p hp => ?_⟩
  · have hne : q ≠ r := fun e => hq (e ▸ hr)
    rw [State.reg_setReg_ne t b hne, hreg q hq]
  · cases p <;> exact hpart _ hp

/-- The input byte of a Step is no register and no other part (R41). -/
theorem Unchanged.withRnd (regs : List Reg) (s : State) (rnd : Byte) :
    Unchanged regs [.rnd] s { s with rnd := rnd } := by
  refine ⟨fun _ _ => rfl, fun p hp => ?_⟩
  cases p with
  | rnd => exact absurd (by decide) hp
  | memory => exact fun _ => rfl
  | _ => rfl

/-- An instruction that writes `b` to VX alone: what follows of VX holds, the rest is unchanged, and it ends with Ok. -/
theorem exec_writes_reg {i : Instr} {s : State} {x : Reg} {b : Byte} {Q : State → Prop}
    (h : exec i s = .next (s.setReg x b).finish) (hQ : ∀ t : State, t.reg x = b → Q t) :
    ∃ t, exec i s = .next t ∧ Q t ∧ Unchanged [x] [] s t ∧ EndsOk s t :=
  ⟨_, h, hQ _ (by simp), ((Unchanged.refl [x] [] s).setReg b (by simp)).report _, rfl, rfl⟩

/-- An instruction that writes `b` to VX and then the flag to VF (R133): VX is `b` unless it is VF, VF is the flag, the
rest is unchanged, and it ends with Ok. -/
theorem exec_writes_reg_then_flag {i : Instr} {s : State} {x : Reg} {b : Byte} {f : Bool} {n : Nat} {Q : State → Prop}
    (h : exec i s = .next (s.setResultFlag x b f).finish) (hQ : ∀ t : State, t.reg x = b → Q t)
    (hf : (flagByte f).toNat = n) :
    ∃ t, exec i s = .next t ∧ (x ≠ flagReg → Q t) ∧ (t.reg flagReg).toNat = n ∧ Unchanged [x, flagReg] [] s t ∧
      EndsOk s t := by
  refine ⟨_, h, fun hx => hQ _ ?_, ?_,
    (((Unchanged.refl [x, flagReg] [] s).setReg b (by simp)).setReg (flagByte f) (by simp)).report _, rfl, rfl⟩
  · simp [State.reg_setReg_ne _ _ hx]
  · simpa using hf

/-! ## Differences and flags as numbers (R21, R126 to R130) -/

/-- The difference of two bytes is the integer one modulo 256 (R127, R129). -/
theorem subBytes_toNat_int (a b : Byte) : ((subBytes a b).toNat : Int) = (a.toNat - b.toNat : Int) % 256 := by
  have := b.isLt
  rw [subBytes_toNat]
  omega

theorem flagByte_carryOut (x y : Byte) :
    (flagByte (carryOut x y)).toNat = if 255 < x.toNat + y.toNat then 1 else 0 := by
  simp only [flagByte_toNat, carryOut, decide_eq_true_eq]

theorem flagByte_noBorrow (a b : Byte) : (flagByte (noBorrow a b)).toNat = if b.toNat ≤ a.toNat then 1 else 0 := by
  simp only [flagByte_toNat, noBorrow, decide_eq_true_eq]

/-- A bit as a flag is that binary digit of the number. -/
theorem flagByte_getLsbD (b : Byte) (k : Nat) : (flagByte (b.getLsbD k)).toNat = b.toNat / 2 ^ k % 2 := by
  rw [flagByte_toNat, BitVec.getLsbD, Nat.testBit_eq_decide_div_mod_eq]
  simp only [decide_eq_true_eq]
  split <;> omega

theorem flagByte_droppedLow (b : Byte) : (flagByte (droppedLow b)).toNat = b.toNat % 2 := by
  rw [droppedLow, flagByte_getLsbD, Nat.pow_zero, Nat.div_one]

/-- Bit 7 is the last digit, so no remainder is taken. -/
theorem flagByte_droppedHigh (b : Byte) : (flagByte (droppedHigh b)).toNat = b.toNat / 128 := by
  have := b.isLt
  rw [droppedHigh, flagByte_getLsbD]
  omega

/-! ## The words of family 8 (R78) -/

/-- A word of family 8 with the low nibble added to the opcode. -/
theorem isWordOf_family8 (low : Nat) {x y : Reg} {i : Instr} (h : encodeWord i = formatXYN 0x8 x y low) :
    IsWordOf (0x8000 + low + x.val * 256 + y.val * 16) i := by
  refine decodeWord_of_encodeWord (h.trans ?_)
  rw [formatXYN]
  congr 1
  omega

/-! ## The obligations -/

/-- Settles O14: one register written. -/
theorem loadImmediateWritesVX : Obligations.LoadImmediateWritesVX := fun _ _ _ =>
  ⟨decodeWord_of_encodeWord rfl, exec_writes_reg rfl fun _ hx => hx⟩

/-- Settles O15: one register written, with the sum of two bytes. -/
theorem addImmediateWraps : Obligations.AddImmediateWraps := fun _ _ _ =>
  ⟨decodeWord_of_encodeWord rfl, exec_writes_reg rfl fun _ hx => by rw [hx, addBytes_toNat]⟩

/-- Settles O16: one register written, with an operation on words that is the one on each bit. -/
theorem copyAndLogicLeaveTheFlag : Obligations.CopyAndLogicLeaveTheFlag := fun _ _ _ =>
  ⟨isWordOf_family8 0 rfl, isWordOf_family8 1 rfl, isWordOf_family8 2 rfl, isWordOf_family8 3 rfl,
    exec_writes_reg rfl fun _ hx => hx,
    exec_writes_reg rfl fun _ hx _ _ => by rw [hx, BitVec.getLsbD_or],
    exec_writes_reg rfl fun _ hx _ _ => by rw [hx, BitVec.getLsbD_and],
    exec_writes_reg rfl fun _ hx _ _ => by rw [hx, BitVec.getLsbD_xor]⟩

/-- Settles O17: the sum to VX, then the carry to VF. -/
theorem addSetsTheCarry : Obligations.AddSetsTheCarry := fun _ _ _ =>
  ⟨isWordOf_family8 4 rfl,
    exec_writes_reg_then_flag rfl (fun _ hx => by rw [hx, addBytes_toNat]) (flagByte_carryOut _ _)⟩

/-- Settles O18: the difference to VX, then no borrow to VF; 8XY7 is 8XY5 with its operands exchanged. -/
theorem subtractSetsNoBorrow : Obligations.SubtractSetsNoBorrow := fun _ _ _ =>
  ⟨isWordOf_family8 5 rfl, isWordOf_family8 7 rfl,
    exec_writes_reg_then_flag rfl (fun _ hx => by rw [hx, subBytes_toNat_int]) (flagByte_noBorrow _ _),
    exec_writes_reg_then_flag rfl (fun _ hx => by rw [hx, subBytes_toNat_int]) (flagByte_noBorrow _ _)⟩

/-- Settles O19: the shifted source to VX, then the dropped bit to VF, whichever register the source is. -/
theorem shiftsKeepTheDroppedBit : Obligations.ShiftsKeepTheDroppedBit := by
  intro s x y b hb
  obtain rfl : b = shiftSource s.config.shiftSrcVY (s.reg x) (s.reg y) := hb
  exact ⟨isWordOf_family8 6 rfl, isWordOf_family8 0xE rfl,
    exec_writes_reg_then_flag rfl (fun _ hx => by rw [hx, shiftRightOne_toNat]) (flagByte_droppedLow _),
    exec_writes_reg_then_flag rfl (fun _ hx => by rw [hx, shiftLeftOne_toNat]) (flagByte_droppedHigh _)⟩

/-- Settles O20: the input byte of the Step is taken, then one register is written. -/
theorem randomIsTheInputByteMasked : Obligations.RandomIsTheInputByteMasked := by
  intro s x nn rnd
  refine ⟨decodeWord_of_encodeWord rfl, _, rfl, fun k _ => ?_,
    ((Unchanged.withRnd [x] s rnd).setReg (rnd &&& nn) (by simp)).report _, rfl, rfl, rfl⟩
  rw [State.finish_eq, State.reg_report, State.reg_setReg_same, BitVec.getLsbD_and]

end Sys2Proof.Machine

/-! PROOFS, family 42_index_memory.md: I set (R140 to R142), a block stored at I (R143, R144), a block loaded from I
(R145), each with its frame once, and FX65 after FX55. -/

namespace Sys2Proof.Machine

/-- A word of family F with the low byte added to the opcode. -/
theorem isWordOf_familyF (function : Nat) {x : Reg} {i : Instr} (h : encodeWord i = formatXK 0xF x function) :
    IsWordOf (0xF000 + function + x.val * 256) i := by
  refine decodeWord_of_encodeWord (h.trans ?_)
  rw [formatXK]
  congr 1
  omega

/-- An instruction that only raises a status changes nothing else (R179). -/
theorem exec_raises {i : Instr} {s : State} {st : Status} (h : exec i s = .next (s.raise st)) :
    ∃ t, exec i s = .next t ∧ Unchanged [] [] s t ∧ Ends (StepOut.quiet st) s t :=
  ⟨_, h, (Unchanged.refl [] [] s).report _, rfl, rfl⟩

/-! ## Setting I (R140 to R142) -/

/-- Setting I stays within a frame that lists I. -/
theorem Unchanged.setI {regs : List Reg} {parts : List Part} {s t : State} (h : Unchanged regs parts s t) (a : Word)
    (hi : .i ∈ parts) : Unchanged regs parts s (t.setI a) := by
  obtain ⟨hreg, hpart⟩ := h
  refine ⟨hreg, fun p hp => ?_⟩
  cases p with
  | i => exact absurd hi hp
  | _ => exact hpart _ hp

/-- An instruction that only sets I leaves the rest, VF among it, and ends with Ok. -/
theorem exec_sets_index {i : Instr} {s : State} {a : Word} {n : Nat} (h : exec i s = .next (s.setI a).finish)
    (ha : a.toNat = n) : ∃ t, exec i s = .next t ∧ t.i.toNat = n ∧ Unchanged [] [.i] s t ∧ EndsOk s t :=
  ⟨_, h, ha, ((Unchanged.refl [] [.i] s).setI a (by decide)).report _, rfl, rfl⟩

/-- Five times a byte fits the 16 bits of I, so the address of FX29 is exact (R142). -/
theorem glyphAddress_toNat (b : Byte) : (BitVec.ofNat 16 (5 * b.toNat)).toNat = 5 * b.toNat := by
  have := b.isLt
  rw [BitVec.toNat_ofNat]
  omega

/-- Settles O21: I set, and an address of 12 bits is exact. -/
theorem loadIndexIsNNN : Obligations.LoadIndexIsNNN := fun _ nnn =>
  ⟨decodeWord_of_encodeWord rfl, exec_sets_index rfl (addressOf_toNat nnn)⟩

/-- Settles O22: I set, the sum reduced to the 16 bits of I, the product exact. -/
theorem indexArithmetic : Obligations.IndexArithmetic := fun _ _ =>
  ⟨isWordOf_familyF 0x1E rfl, isWordOf_familyF 0x29 rfl, exec_sets_index rfl (BitVec.toNat_ofNat _ 16),
    exec_sets_index rfl (glyphAddress_toNat _)⟩

/-! ## Storing a block at I (R143, R144) -/

/-- Writing memory stays within a frame that lists memory. -/
theorem Unchanged.setMemory {regs : List Reg} {parts : List Part} {s t : State} (h : Unchanged regs parts s t)
    (m : Memory) (hm : .memory ∈ parts) : Unchanged regs parts s (t.setMemory m) := by
  obtain ⟨hreg, hpart⟩ := h
  refine ⟨hreg, fun p hp => ?_⟩
  cases p with
  | memory => exact absurd hm hp
  | _ => exact hpart _ hp

/-- Element k of a stored block is the byte at I + k (R146). -/
theorem State.read_storeAtI_inside (s : State) (bs : List Byte) {k : Nat} (hk : k < bs.length) :
    (s.storeAtI bs).memory.read (s.effective k) = bs[k] :=
  Memory.read_writeBlock_inside s.memory (s.effective 0) k bs hk

/-- An address that is none of I, I + 1 and so on through the block keeps its byte. -/
theorem State.read_storeAtI_outside (s : State) (bs : List Byte) {a : Nat}
    (ha : ∀ k, k < bs.length → a ≠ s.effective k) : (s.storeAtI bs).memory.read a = s.memory.read a := by
  refine Memory.read_writeBlock_outside s.memory (s.effective 0) a bs ?_
  by_contra hin
  refine ha (a - s.effective 0) (by omega) ?_
  simp only [State.effective] at hin ⊢
  omega

/-- A block stored at I changes nothing beside memory; I keeps its value (D14). -/
theorem State.storeAtI_finish_frame (s : State) (bs : List Byte) :
    Unchanged [] [.memory] s (s.storeAtI bs).finish ∧ EndsOk s (s.storeAtI bs).finish :=
  ⟨((Unchanged.refl [] [.memory] s).setMemory _ (by decide)).report _, rfl, rfl⟩

@[simp] theorem decimalDigits_length (b : Byte) : (decimalDigits b).length = 3 := rfl

/-- FX33 leaves hundreds, tens and ones at I, I + 1 and I + 2: each is below 256, so its byte is exact (R143). -/
theorem State.read_storeAtI_decimalDigits (s : State) (b : Byte) :
    ((s.storeAtI (decimalDigits b)).memory.read (s.effective 0)).toNat = b.toNat / 100 ∧
    ((s.storeAtI (decimalDigits b)).memory.read (s.effective 1)).toNat = b.toNat / 10 % 10 ∧
    ((s.storeAtI (decimalDigits b)).memory.read (s.effective 2)).toNat = b.toNat % 10 := by
  have := b.isLt
  rw [s.read_storeAtI_inside (decimalDigits b) (k := 0) (by simp),
    s.read_storeAtI_inside (decimalDigits b) (k := 1) (by simp),
    s.read_storeAtI_inside (decimalDigits b) (k := 2) (by simp)]
  refine ⟨Nat.mod_eq_of_lt ?_, Nat.mod_eq_of_lt ?_, Nat.mod_eq_of_lt ?_⟩ <;> omega

/-- Settles O23: the digits are the stored block, or the range check names the first bad address. -/
theorem storeDecimalDigits : Obligations.StoreDecimalDigits := by
  intro s x
  refine ⟨isWordOf_familyF 0x33 rfl, fun hok => ?_, fun a ha =>
    exec_raises (exec_ldB_of_bad x (State.badWrite_eq_some.2 ha))⟩
  obtain ⟨hhundreds, htens, hones⟩ := s.read_storeAtI_decimalDigits (s.reg x)
  exact ⟨_, exec_ldB_of_writable x (State.badWrite_eq_none.2 hok), hhundreds, htens, hones,
    fun a ha => s.read_storeAtI_outside _ ha, s.storeAtI_finish_frame _⟩

/-- Settles O24: V0 to VX are the stored block, or the range check names the first bad address. -/
theorem storeRegisterBlock : Obligations.StoreRegisterBlock := by
  intro s x
  refine ⟨isWordOf_familyF 0x55 rfl, fun hok => ?_, fun a ha =>
    exec_raises (exec_storeRegs_of_bad (State.badWrite_eq_some.2 ha))⟩
  exact ⟨_, exec_storeRegs_of_writable (State.badWrite_eq_none.2 hok), fun r hr => s.read_storeAtI_regsThrough hr,
    fun a ha => s.read_storeAtI_outside _ (by rwa [regsThrough_length]), s.storeAtI_finish_frame _⟩

/-! ## Loading a block from I (R145) -/

/-- FX65 writes general registers alone, by the field lemmas of `loadThrough` and `report`; I keeps its value (D14). -/
theorem Part.same_loadThrough_finish (p : Part) (s : State) (x : Reg) : p.same s (s.loadThrough x).finish := by
  cases p <;> simp [Part.same]

/-- FX65 at readable addresses: V[R] is the byte at I + R up to X, the rest is unchanged, and it ends with Ok. -/
theorem exec_loadRegs_of_allReadOk {s : State} {x : Reg} (hok : ∀ k, k < x.val + 1 → ReadOk (s.effective k)) :
    ∃ t, exec (.loadRegs x) s = .next t ∧ (∀ r : Reg, r.val ≤ x.val → t.reg r = s.memory.read (s.effective r.val)) ∧
      (∀ r : Reg, x.val < r.val → t.reg r = s.reg r) ∧ (∀ p : Part, p.same s t) ∧ EndsOk s t := by
  refine ⟨_, exec_loadRegs_of_readable (State.badRead_eq_none.2 hok), fun r hr => ?_, fun r hr => ?_,
    fun p => p.same_loadThrough_finish s x, rfl, rfl⟩
  · rw [State.finish_eq, State.reg_report, State.reg_loadThrough, if_pos hr, State.element]
  · rw [State.finish_eq, State.reg_report, State.reg_loadThrough, if_neg (Nat.not_le.2 hr)]

/-- Settles O25: V0 to VX are loaded, or the range check names the first bad address. -/
theorem loadRegisterBlock : Obligations.LoadRegisterBlock := fun _ _ =>
  ⟨isWordOf_familyF 0x65 rfl, exec_loadRegs_of_allReadOk, fun _ ha =>
    exec_raises (exec_loadRegs_of_bad (State.badRead_eq_some.2 ha))⟩

/-! ## A store and a load together (R145) -/

/-- Settles O44: what may be written may be read, so FX65 passes its range check, and the byte it finds at I + R is the
V[R] that FX55 stored. -/
theorem storeThenLoadGivesTheRegistersBack : Obligations.StoreThenLoadGivesTheRegistersBack := by
  intro s t u x hstore hok hi hsame
  obtain ⟨hwritable, rfl⟩ := exec_storeRegs_eq_of_ok hstore hok
  have heff (k : Nat) : u.effective k = s.effective k := by simp only [State.effective, hi]
  have hreadable : ∀ k, k < x.val + 1 → ReadOk (u.effective k) := fun k hk => by
    obtain ⟨-, hlt⟩ := hwritable k hk
    rwa [heff]
  obtain ⟨w, hload, hlow, hhigh, -, hout, -⟩ := exec_loadRegs_of_allReadOk hreadable
  refine ⟨w, hload, congrArg StepOut.status hout, fun r hr => ?_, hhigh⟩
  calc w.reg r = u.memory.read (u.effective r.val) := hlow r hr
    _ = u.memory.read (s.effective r.val) := by rw [heff]
    _ = (s.storeAtI (s.regsThrough x)).memory.read (s.effective r.val) := hsame r.val (Nat.lt_succ_of_le hr)
    _ = s.reg r := s.read_storeAtI_regsThrough hr

end Sys2Proof.Machine

/-! PROOFS, family 43_display.md: the clear screen (R150), one draw as the flip of its footprint with the collision in
VF (R151, R152), and a second draw of the same footprint (R153). -/

namespace Sys2Proof.Machine

/-- Writing the display stays within a frame that lists the display. -/
theorem Unchanged.setDisplay {regs : List Reg} {parts : List Part} {s t : State} (h : Unchanged regs parts s t)
    (d : Display) (hd : .display ∈ parts) : Unchanged regs parts s (t.setDisplay d) := by
  obtain ⟨hreg, hpart⟩ := h
  refine ⟨hreg, fun p hp => ?_⟩
  cases p with
  | display => exact absurd hd hp
  | _ => exact hpart _ hp

/-- Settles O26: the display is written with cells that are all off, and nothing else is. -/
theorem clearTurnsEveryCellOff : Obligations.ClearTurnsEveryCellOff := fun s =>
  ⟨decodeWord_of_encodeWord rfl, _, rfl, Display.pixel_clear,
    ((Unchanged.refl [] [.display] s).setDisplay _ (by decide)).report _, rfl, rfl⟩

/-- Settles O28: the range check names the first bad row, and only its status is raised. -/
theorem drawBeyondMemoryChangesNothing : Obligations.DrawBeyondMemoryChangesNothing := fun _ x y _ _ ha =>
  exec_raises (exec_drw_of_bad x y (State.badRead_eq_some.2 ha))

/-! ## One draw (R151, R152) -/

section OneDraw
variable {s : State} {x y : Reg} {n : BitVec 4} {px : Fin 64} {py : Fin 32}

theorem State.pixel_drawing_of_inFootprint (h : s.inFootprint x y n px py) :
    (s.drawing x y n).display.pixel px py = !s.display.pixel px py :=
  ((Draw.sprite_spec _ _ _ n.isLt.le s.element s.display).1 px py).1 h

theorem State.pixel_drawing_of_not_inFootprint (h : ¬ s.inFootprint x y n px py) :
    (s.drawing x y n).display.pixel px py = s.display.pixel px py :=
  ((Draw.sprite_spec _ _ _ n.isLt.le s.element s.display).1 px py).2 h

/-- The collision bit (R153 a): a cell of the footprint was on. -/
theorem State.hit_drawing_iff :
    (s.drawing x y n).hit = true ↔ ∃ px py, s.inFootprint x y n px py ∧ s.display.pixel px py = true :=
  (Draw.sprite_spec _ _ _ n.isLt.le s.element s.display).2

/-- DXYN on readable rows writes the display and VF alone, from its drawing, and raises displayDirty. -/
theorem exec_drw_of_allReadOk (hok : ∀ k, k < n.toNat → ReadOk (s.effective k)) :
    ∃ t, exec (.drw x y n) s = .next t ∧ t.display = (s.drawing x y n).display ∧
      t.reg flagReg = flagByte (s.drawing x y n).hit ∧ Unchanged [flagReg] [.display] s t ∧
      Ends { StepOut.quiet .ok with displayDirty := true } s t := by
  refine ⟨_, exec_drw_of_readable x y (State.badRead_eq_none.2 hok), rfl, by simp, ?_, rfl, rfl⟩
  exact (((Unchanged.refl [flagReg] [.display] s).setDisplay _ (by decide)).setReg _ (by decide)).report _

end OneDraw

/-- A flag whose bit decides `P` is 1 when `P` holds and 0 when it does not (R21). -/
theorem flagByte_toNat_of_iff {b : Bool} {P : Prop} (h : b = true ↔ P) :
    (P → (flagByte b).toNat = 1) ∧ (¬ P → (flagByte b).toNat = 0) := by
  rw [flagByte_toNat, ← h]
  exact ⟨fun hP => if_pos hP, fun hP => if_neg hP⟩

/-- Settles O27: the cells and the flag of the one drawing, with its frame. -/
theorem drawFlipsTheFootprint : Obligations.DrawFlipsTheFootprint := by
  intro s x y n
  refine ⟨decodeWord_of_encodeWord rfl, fun hok => ?_⟩
  obtain ⟨t, hexec, hdisplay, hflag, hframe, hends⟩ := exec_drw_of_allReadOk (x := x) (y := y) hok
  obtain ⟨hone, hzero⟩ := flagByte_toNat_of_iff (s.hit_drawing_iff (x := x) (y := y) (n := n))
  rw [← hflag] at hone hzero
  refine ⟨t, hexec, fun px py hin => ?_, fun px py hout => ?_, hone, hzero, hframe, hends⟩
  · rw [hdisplay, State.pixel_drawing_of_inFootprint hin]
  · rw [hdisplay, State.pixel_drawing_of_not_inFootprint hout]

/-! ## A second draw (R153 b) -/

/-- The footprint is the same from any state with the same row bytes and, modulo the screen, the same coordinates. -/
theorem State.inFootprint_congr {s u : State} {x y p q : Reg} {n : BitVec 4}
    (hrows : ∀ k, k < n.toNat → u.element k = s.element k) (hx : (u.reg p).toNat % 64 = (s.reg x).toNat % 64)
    (hy : (u.reg q).toNat % 32 = (s.reg y).toNat % 32) (px : Fin 64) (py : Fin 32) :
    u.inFootprint p q n px py ↔ s.inFootprint x y n px py := by
  simp only [State.inFootprint, hx, hy]
  refine exists₂_congr fun r c => and_congr_right fun hr => ?_
  rw [hrows r hr]

/-- Settles O29: the second draw flips the cells of the same footprint back, and it meets an on cell exactly where the
first met an off one (C9). -/
theorem drawTwiceRestoresTheDisplay : Obligations.DrawTwiceRestoresTheDisplay := by
  intro s t u x y p q n hok hfirst hdisplay hi hrows hx hy
  have hsame := State.inFootprint_congr hrows hx hy
  obtain ⟨t', hfirst', hdrawn, -⟩ := exec_drw_of_allReadOk (x := x) (y := y) hok
  obtain rfl : t' = t := Host.Outcome.next.inj (hfirst'.symm.trans hfirst)
  have hu : u.display = (s.drawing x y n).display := hdisplay.trans hdrawn
  have hok' : ∀ k, k < n.toNat → ReadOk (u.effective k) := by simpa only [State.effective, hi] using hok
  obtain ⟨w, hsecond, hback, hflag, -⟩ := exec_drw_of_allReadOk (x := p) (y := q) hok'
  have hhit : (u.drawing p q n).hit = true ↔
      ∃ px py, s.inFootprint x y n px py ∧ s.display.pixel px py = false := by
    rw [State.hit_drawing_iff]
    refine exists₂_congr fun px py => ?_
    rw [hsame]
    refine and_congr_right fun hin => ?_
    rw [hu, State.pixel_drawing_of_inFootprint hin, Bool.not_eq_true']
  refine ⟨w, hsecond, hback.trans (Display.ext_pixel fun px py => ?_), hflag ▸ flagByte_toNat_of_iff hhit⟩
  by_cases hin : s.inFootprint x y n px py
  · rw [State.pixel_drawing_of_inFootprint ((hsame px py).2 hin), hu, State.pixel_drawing_of_inFootprint hin,
      Bool.not_not]
  · rw [State.pixel_drawing_of_not_inFootprint (mt (hsame px py).1 hin), hu,
      State.pixel_drawing_of_not_inFootprint hin]

end Sys2Proof.Machine

/-! PROOFS, family 44_timer_key.md: the skips on a key (R160, R161), the timer moves (R162, R164, R165), and FX0A
with its wait over a run (R163). -/

namespace Sys2Proof.Machine

/-! ## The skips on a key (R160, R161) -/

/-- A word of format XK with the low byte added to the opcode. -/
theorem isWordOf_formatXK (opcode function : Nat) {x : Reg} {i : Instr}
    (h : encodeWord i = formatXK opcode x function) : IsWordOf (opcode * 4096 + function + x.val * 256) i := by
  refine decodeWord_of_encodeWord (h.trans ?_)
  rw [formatXK]
  congr 1
  omega

/-- With VX a key index, a skip on a key moves pc 2 further exactly when the latched state is the one asked for. -/
theorem exec_skips_on_key {i : Instr} {s : State} {x : Reg} {wanted : Bool} (h : exec i s = skipOnKey x wanted s)
    (hkey : (s.reg x).toNat ≤ 15) :
    ∃ t, exec i s = .next t ∧
      t.pc = (if s.keypad.getLsbD (s.reg x).toNat = wanted then s.pc + 2 else s.pc) ∧
      Unchanged [] [.pc] s t ∧ EndsOk s t := by
  rw [skipOnKey_of_key wanted (Nat.not_lt.2 hkey)] at h
  simp only [State.skipIf_eq_setPc, State.keyDown, beq_iff_eq] at h
  exact exec_moves_pc h

/-- Settles O30: one skip with the two wanted states, or the raised status alone. -/
theorem skipsOnTheLatchedKey : Obligations.SkipsOnTheLatchedKey := by
  intro s x
  refine ⟨isWordOf_formatXK 0xE 0x9E rfl, isWordOf_formatXK 0xE 0xA1 rfl,
    fun hkey => ⟨exec_skips_on_key rfl hkey, ?_⟩, fun hbad i hi => ?_⟩
  · simpa only [← Bool.not_eq_true, ite_not] using exec_skips_on_key (i := .sknp x) (wanted := false) rfl hkey
  · obtain rfl | rfl := hi
    · exact exec_raises (skipOnKey_of_bad true hbad)
    · exact exec_raises (skipOnKey_of_bad false hbad)

/-! ## The timers (R162, R164, R165) -/

section Timers
variable {regs : List Reg} {parts : List Part} {s t : State}

/-- Setting DT stays within a frame that lists DT. -/
theorem Unchanged.setDt (h : Unchanged regs parts s t) (b : Byte) (hdt : .dt ∈ parts) :
    Unchanged regs parts s (t.setDt b) := by
  obtain ⟨hreg, hpart⟩ := h
  refine ⟨hreg, fun p hp => ?_⟩
  cases p with
  | dt => exact absurd hdt hp
  | _ => exact hpart _ hp

/-- Setting ST stays within a frame that lists ST, whether playAudio is listed or not (C5). -/
theorem Unchanged.setSt (h : Unchanged regs parts s t) (b : Byte) (hst : .st ∈ parts) :
    Unchanged regs parts s (t.setSt b) := by
  obtain ⟨hreg, hpart⟩ := h
  refine ⟨hreg, fun p hp => ?_⟩
  cases p with
  | st => exact absurd hst hp
  | _ => exact hpart _ hp

end Timers

/-- Settles O31: one register written, or one timer. -/
theorem timerMoves : Obligations.TimerMoves := fun s _ =>
  ⟨isWordOf_familyF 0x07 rfl, isWordOf_familyF 0x15 rfl, isWordOf_familyF 0x18 rfl,
    exec_writes_reg rfl fun _ hx => hx,
    ⟨_, rfl, rfl, ((Unchanged.refl [] [.dt] s).setDt _ (by decide)).report _, rfl, rfl⟩,
    ⟨_, rfl, rfl, ((Unchanged.refl [] [.st] s).setSt _ (by decide)).report _, rfl, rfl⟩⟩

/-! ## FX0A (R163) -/

/-- The outputs of an FX0A that finds no key (R163, D7). -/
def StepOut.waiting : StepOut := { StepOut.quiet .ok with keyWait := true }

theorem State.lowestKey_of_noKey {s : State} (h : s.keypad = 0) : s.lowestKey = none :=
  State.lowestKey_eq_none.2 fun k _ => by rw [State.keyDown, h, BitVec.ofNat_eq_ofNat, BitVec.getLsbD_zero]

/-- With no key FX0A only takes the pc advance back and reports keyWait. -/
theorem exec_ldVxK_of_noKey {s : State} (x : Reg) (h : s.keypad = 0) :
    exec (.ldVxK x) s = .next ((s.setPc (s.pc - 2)).report .waiting) :=
  exec_ldVxK_of_none x (State.lowestKey_of_noKey h)

/-- Settles O32: the least key is the one the search finds, and with no key only pc is written. -/
theorem keyWaitTakesTheLeastKey : Obligations.KeyWaitTakesTheLeastKey := by
  intro s x
  refine ⟨isWordOf_familyF 0x0A rfl, fun k hdown hleast => ?_, fun hnone => ?_⟩
  · have hk : s.lowestKey = some k.val := State.lowestKey_eq_some.2 ⟨k.isLt, hdown, hleast⟩
    refine exec_writes_reg (exec_ldVxK_of_key x hk) fun t hx => ?_
    rw [hx, BitVec.toNat_ofNat]
    omega
  · exact ⟨_, exec_ldVxK_of_noKey x hnone, rfl,
      ((Unchanged.refl [] [.pc] s).setPc _ (by decide)).report _, rfl, rfl⟩

/-! ## The wait over a run (R163, D7) -/

/-- None of the events to come is a SetKeys. -/
def State.noKeysToCome (s : State) : Prop := ∀ es ∈ s.inputs, ∀ e ∈ es, ∀ k, e ≠ .setKeys k

/-- Events that are no SetKeys leave the keypad (R43). -/
theorem State.foldl_input_keypad {es : List InputEvent} (h : ∀ e ∈ es, ∀ k, e ≠ .setKeys k) (s : State) :
    (es.foldl State.input s).keypad = s.keypad := by
  induction es generalizing s with
  | nil => rfl
  | cons e es ih =>
    obtain ⟨he, hes⟩ := List.forall_mem_cons.1 h
    refine (ih hes (s.input e)).trans ?_
    cases e with
    | setKeys k => exact absurd rfl (he k)
    | ackAudio | readDisplay | tick => rfl

theorem State.noKeysToCome.takeInputs_keypad {s : State} (h : s.noKeysToCome) : s.takeInputs.keypad = s.keypad := by
  cases hs : s.inputs with
  | nil => simp only [State.takeInputs, hs]
  | cons es rest =>
    have hes : ∀ e ∈ es, ∀ k, e ≠ .setKeys k := h es (hs ▸ List.mem_cons_self)
    simpa only [State.takeInputs, hs] using State.foldl_input_keypad hes { s with inputs := rest }

theorem State.noKeysToCome.takeInputs {s : State} (h : s.noKeysToCome) : s.takeInputs.noKeysToCome := by
  rw [State.noKeysToCome, State.takeInputs_eq]
  exact fun es hes => h es (List.mem_of_mem_tail hes)

/-- The instruction at pc is an FX0A and no key is pressed. -/
structure State.AwaitsKey (s : State) : Prop where
  fetchable : s.pc.toNat < 4095
  keyInstr : ∃ x, decodeWord s.wordAtPc = .ok (.ldVxK x)
  noKey : s.keypad = 0

/-- Waiting looks at pc, memory and the keypad alone. -/
theorem State.AwaitsKey.of_same {s t : State} (h : s.AwaitsKey) (hpc : t.pc = s.pc) (hmem : t.memory = s.memory)
    (hkeys : t.keypad = s.keypad) : t.AwaitsKey where
  fetchable := hpc ▸ h.fetchable
  keyInstr := by simpa only [State.wordAtPc, hpc, hmem] using h.keyInstr
  noKey := hkeys.trans h.noKey

/-- A Step that finds no key takes back the advance of its own fetch, so it only reports keyWait. -/
theorem stepWith_of_awaitsKey (rnd : Byte) {s : State} (h : s.AwaitsKey) :
    stepWith rnd s = .next (({ s with rnd := rnd } : State).report .waiting) := by
  obtain ⟨hlt, ⟨x, hword⟩, hnone⟩ := h
  have hback : s.pc + 2 - 2 = s.pc := BitVec.add_sub_cancel s.pc 2
  calc stepWith rnd s
      = exec (.ldVxK x) { s with rnd := rnd, pc := s.pc + 2 } := by simp only [stepWith_of_bytes rnd s hlt, hword]
    _ = .next (({ s with rnd := rnd, pc := s.pc + 2 - 2 } : State).report .waiting) := exec_ldVxK_of_noKey x hnone
    _ = .next (({ s with rnd := rnd } : State).report .waiting) := by rw [hback]

/-- The events to come press no key and the Step leaves pc, memory and the keypad, so the wait goes on. -/
theorem keyWait_repeats : StepRepeats (fun s => s.AwaitsKey ∧ s.noKeysToCome) hostParts .waiting := by
  rintro s ⟨hwait, hinputs⟩
  obtain ⟨hpc, hmem, -⟩ := s.takeInputs_kept
  have hu : s.takeInputs.draw.AwaitsKey := hwait.of_same hpc hmem hinputs.takeInputs_keypad
  exact ⟨_, stepWith_of_awaitsKey _ hu, ⟨hu.of_same rfl rfl rfl, hinputs.takeInputs⟩, reported_step_frame s _ _ rfl⟩

/-- A frame shrinks by the parts that are known to be the same. -/
theorem Unchanged.of_same {regs : List Reg} {parts fewer : List Part} {s t : State} (h : Unchanged regs parts s t)
    (hsame : ∀ p ∈ parts, p ∉ fewer → p.same s t) : Unchanged regs fewer s t := by
  obtain ⟨hreg, hpart⟩ := h
  refine ⟨hreg, fun p hp => ?_⟩
  by_cases hin : p ∈ parts
  · exact hsame p hin hp
  · exact hpart p hin

/-- Settles O49: the wait repeats, its keypad stays 0, and its status Ok records nothing. -/
theorem keyWaitHoldsUntilSetKeys : Obligations.KeyWaitHoldsUntilSetKeys := by
  intro s n x hlt hword hnone hinputs
  obtain ⟨t, hrun, ⟨hwait, -⟩, hframe, hacted, hlast⟩ := keyWait_repeats.run n ⟨⟨hlt, ⟨x, hword⟩, hnone⟩, hinputs⟩
  have hkeypad : Part.keypad.same s t := hwait.noKey.trans hnone.symm
  refine ⟨t, hrun, hframe.of_same fun p hp hfewer => ?_, hacted, ?_⟩
  · obtain rfl : p = .keypad := by revert p; decide
    exact hkeypad
  · obtain ⟨rfl, rfl⟩ | ⟨hout, hfirst⟩ := hlast
    · exact ⟨rfl, fun h => absurd h (Nat.lt_irrefl 0)⟩
    · exact ⟨hfirst.trans Option.or_none, fun _ => hout⟩

end Sys2Proof.Machine

/-! PROOFS, family 60_exceptions.md: the statuses an instruction raises (R178) and what a Step with one leaves (R179),
the parts no Step writes (R181, R188), and the Ticks (R182). -/

namespace Sys2Proof.Machine

/-! ## The statuses (R178) -/

/-- `Raises s i st`: from `s` the instruction `i` meets the condition on which it raises `st` (R172 to R175, R178). -/
inductive Raises (s : State) : Instr → Status → Prop
  | stackOverflow (nnn : BitVec 12) (h : s.sp.val = 16) : Raises s (.call nnn) (.stackOverflow s.fetchedAt)
  | stackUnderflow (h : s.sp.val = 0) : Raises s .ret (.stackUnderflow s.fetchedAt)
  | drawRead (x y : Reg) {n : BitVec 4} {a : Nat} (h : FirstFailing ReadOk s n.toNat a) :
      Raises s (.drw x y n) (.addressFault a)
  | blockRead {x : Reg} {a : Nat} (h : FirstFailing ReadOk s (x.val + 1) a) : Raises s (.loadRegs x) (.addressFault a)
  | blockWrite {x : Reg} {a : Nat} (h : FirstFailing WriteOk s (x.val + 1) a) :
      Raises s (.storeRegs x) (.addressFault a)
  | digitsWrite (x : Reg) {a : Nat} (h : FirstFailing WriteOk s 3 a) : Raises s (.ldB x) (.addressFault a)
  | keyIndex {i : Instr} {x : Reg} (hi : i = .skp x ∨ i = .sknp x) (h : 15 < (s.reg x).toNat) :
      Raises s i (.keyIndexFault (s.reg x))

/-- Every instruction ends with Ok, or raises its own status from the state it started from, on the outcome of its one
check. -/
theorem exec_ok_or_raises (i : Instr) (s : State) :
    (∃ t, exec i s = .next t ∧ t.out.status = .ok) ∨ ∃ st, Raises s i st ∧ exec i s = .next (s.raise st) := by
  cases i with
  | ret =>
    rcases h : s.pop with _ | ⟨a, u⟩
    · exact .inr ⟨_, .stackUnderflow (State.pop_eq_none.1 h), exec_ret_of_empty h⟩
    · exact .inl ⟨_, exec_ret_of_pop h, rfl⟩
  | call nnn =>
    rcases h : s.push s.pc with _ | u
    · exact .inr ⟨_, .stackOverflow nnn (State.push_eq_none.1 h), exec_call_of_full nnn h⟩
    · exact .inl ⟨_, exec_call_of_push nnn h, rfl⟩
  | drw x y n =>
    rcases h : s.badRead n.toNat with _ | a
    · exact .inl ⟨_, exec_drw_of_readable x y h, rfl⟩
    · exact .inr ⟨_, .drawRead x y (State.badRead_eq_some.1 h), exec_drw_of_bad x y h⟩
  | loadRegs x =>
    rcases h : s.badRead (x.val + 1) with _ | a
    · exact .inl ⟨_, exec_loadRegs_of_readable h, rfl⟩
    · exact .inr ⟨_, .blockRead (State.badRead_eq_some.1 h), exec_loadRegs_of_bad h⟩
  | storeRegs x =>
    rcases h : s.badWrite (x.val + 1) with _ | a
    · exact .inl ⟨_, exec_storeRegs_of_writable h, rfl⟩
    · exact .inr ⟨_, .blockWrite (State.badWrite_eq_some.1 h), exec_storeRegs_of_bad h⟩
  | ldB x =>
    rcases h : s.badWrite 3 with _ | a
    · exact .inl ⟨_, exec_ldB_of_writable x h, rfl⟩
    · exact .inr ⟨_, .digitsWrite x (State.badWrite_eq_some.1 h), exec_ldB_of_bad x h⟩
  | skp x =>
    by_cases h : 15 < (s.reg x).toNat
    · exact .inr ⟨_, .keyIndex (.inl rfl) h, skipOnKey_of_bad true h⟩
    · exact .inl ⟨_, skipOnKey_of_key true h, rfl⟩
  | sknp x =>
    by_cases h : 15 < (s.reg x).toNat
    · exact .inr ⟨_, .keyIndex (.inr rfl) h, skipOnKey_of_bad false h⟩
    · exact .inl ⟨_, skipOnKey_of_key false h, rfl⟩
  | ldVxK x =>
    rcases h : s.lowestKey with _ | k
    · exact .inl ⟨_, exec_ldVxK_of_none x h, rfl⟩
    · exact .inl ⟨_, exec_ldVxK_of_key x h, rfl⟩
  | _ => exact .inl ⟨_, rfl, rfl⟩

theorem raises_of_exec {i : Instr} {s t : State} (h : exec i s = .next t) :
    t.out.status = .ok ∨ ∃ st, Raises s i st ∧ t = s.raise st := by
  rcases exec_ok_or_raises i s with ⟨u, hu, hok⟩ | ⟨st, hst, hu⟩
  · obtain rfl : t = u := Host.Outcome.next.inj (h.symm.trans hu)
    exact .inl hok
  · exact .inr ⟨st, hst, Host.Outcome.next.inj (h.symm.trans hu)⟩

/-- Settles O34: one clause a constructor of `Raises`. -/
theorem eachInstructionRaisesItsOwnStatus : Obligations.EachInstructionRaisesItsOwnStatus := by
  intro i s t h
  obtain hok | ⟨st, hst, rfl⟩ := raises_of_exec h
  · exact .inl hok
  · refine .inr ?_
    cases hst with
    | stackOverflow nnn hcond => exact .inl ⟨nnn, rfl, hcond, rfl⟩
    | stackUnderflow hcond => exact .inr (.inl ⟨rfl, hcond, rfl⟩)
    | drawRead x y hcond => exact .inr (.inr (.inl ⟨x, y, _, _, rfl, hcond, rfl⟩))
    | blockRead hcond => exact .inr (.inr (.inr (.inl ⟨_, _, rfl, hcond, rfl⟩)))
    | blockWrite hcond => exact .inr (.inr (.inr (.inr (.inl ⟨_, _, rfl, hcond, rfl⟩))))
    | digitsWrite x hcond => exact .inr (.inr (.inr (.inr (.inr (.inl ⟨x, _, rfl, hcond, rfl⟩)))))
    | keyIndex hi hcond => exact .inr (.inr (.inr (.inr (.inr (.inr ⟨_, hi, hcond, rfl⟩)))))

/-! ## A Step with a non-Ok status (R179) -/

/-- A Step that ends with a non-Ok status is the fetch fault, or raises a status from the state with pc advanced, whether
its word is an instruction or not. -/
theorem stepWith_nonOk_cases {rnd : Byte} {s t : State} (h : stepWith rnd s = .next t) (hne : t.out.status ≠ .ok) :
    (s.pc.toNat = 4095 ∧ t = ({ s with rnd := rnd } : State).raise (.addressFault 4096)) ∨
    (s.pc.toNat < 4095 ∧ ∃ st, t = ({ s with rnd := rnd, pc := s.pc + 2 } : State).raise st) := by
  obtain ⟨-, rfl⟩ | hfault | ⟨hpc, i, -, hexec⟩ | ⟨hpc, e, -, ht⟩ := stepWith_cases h
  · exact absurd rfl hne
  · exact .inl hfault
  · obtain ⟨st, -, ht⟩ := (raises_of_exec hexec).resolve_left hne
    exact .inr ⟨hpc, st, ht⟩
  · exact .inr ⟨hpc, _, ht⟩

/-- Settles O33: both kinds of such a Step only report, from the state as it was or with pc advanced. -/
theorem nonOkStepsOnlyAdvancePc : Obligations.NonOkStepsOnlyAdvancePc := by
  intro rnd s t h hne
  obtain ⟨hpc, rfl⟩ | ⟨hpc, st, rfl⟩ := stepWith_nonOk_cases h hne
  · have hframe := (Unchanged.reported s rnd (StepOut.quiet (.addressFault 4096))).of_same (fewer := [.pc, .rnd])
      fun p hp hfewer => absurd (List.mem_cons_of_mem _ hp) hfewer
    exact ⟨hframe, rfl, rfl, fun hlt => absurd hpc hlt.ne, fun _ => ⟨hpc, rfl⟩⟩
  · exact ⟨.advancedReported s rnd _, rfl, rfl, fun _ => rfl, fun hle => absurd hpc (Nat.not_lt.2 hle)⟩

/-! ## What no Step writes (R181, R188) -/

/-- What no instruction writes before it reports: the host's latches (R28, R29), the parameters (R32), and of the model's
own fields the coming inputs, the draw counter and the record of statuses. -/
structure HostSideKept (s u : State) : Prop where
  keypad : u.keypad = s.keypad
  playAudio : u.playAudio = s.playAudio
  config : u.config = s.config
  inputs : u.inputs = s.inputs
  draws : u.draws = s.draws
  firstNonOk : u.firstNonOk = s.firstNonOk

theorem Effect.hostSideKept {i : Instr} {s u : State} (he : Effect s i u) : HostSideKept s u := by
  cases he with
  | popped hp =>
    rw [State.pop_eq hp]
    constructor <;> simp
  | pushed nnn hp =>
    rw [State.push_eq hp]
    constructor <;> simp
  | _ => constructor <;> simp

/-- Every Step ends with one report, from a state with the host's side as it was. -/
theorem stepWith_reports {rnd : Byte} {s t : State} (h : stepWith rnd s = .next t) :
    ∃ u o, t = u.report o ∧ HostSideKept s u := by
  obtain ⟨-, rfl⟩ | ⟨-, rfl⟩ | ⟨-, i, -, hexec⟩ | ⟨-, e, -, rfl⟩ := stepWith_cases h
  · exact ⟨_, _, rfl, rfl, rfl, rfl, rfl, rfl, rfl⟩
  · exact ⟨_, _, rfl, rfl, rfl, rfl, rfl, rfl, rfl⟩
  · obtain ⟨u, o, rfl, he⟩ := effect_of_exec hexec
    obtain ⟨hkeypad, hplay, hconfig, hinputs, hdraws, hfirst⟩ := he.hostSideKept
    exact ⟨u, o, rfl, hkeypad, hplay, hconfig, hinputs, hdraws, hfirst⟩
  · exact ⟨_, _, rfl, rfl, rfl, rfl, rfl, rfl, rfl⟩

/-- Settles O35: the one report of a Step adds its status to the record only when there is none yet. -/
theorem firstNonOkStatusIsSticky : Obligations.FirstNonOkStatusIsSticky := by
  intro rnd s t h
  obtain ⟨u, o, rfl, hkept⟩ := stepWith_reports h
  rw [State.report_firstNonOk, State.report_out, hkept.firstNonOk]
  refine ⟨fun f hf => ?_, fun hnone => ?_⟩
  · rw [hf, Option.some_or]
  · rw [hnone, Option.none_or]

/-- Settles O38: a report writes the outputs and the record alone. -/
theorem programsCannotWriteTheHostsLatches : Obligations.ProgramsCannotWriteTheHostsLatches := by
  intro rnd s t h
  obtain ⟨u, o, rfl, hkept⟩ := stepWith_reports h
  exact ⟨hkept.keypad, hkept.playAudio, hkept.config, hkept.inputs, hkept.draws⟩

/-! ## Ticks (R182) -/

theorem State.tick_dt_toNat (s : State) : s.tick.dt.toNat = s.dt.toNat - 1 := by
  rw [State.tick_dt]
  split
  · omega
  · rw [BitVec.toNat_ofNat]
    omega

theorem State.tick_st_toNat (s : State) : s.tick.st.toNat = s.st.toNat - 1 := by
  rw [State.tick_st]
  split
  · omega
  · rw [BitVec.toNat_ofNat]
    omega

/-- A Tick raises playAudio when it finds ST above 0, and never clears it. -/
theorem State.tick_playAudio_eq_or (s : State) : s.tick.playAudio = (s.playAudio || decide (0 < s.st.toNat)) := by
  rw [State.tick_playAudio]
  by_cases h : s.st.toNat = 0
  · simp [h]
  · simp [h, Nat.pos_of_ne_zero h]

/-- A Tick writes the timers and playAudio alone. -/
theorem State.tick_unchanged (s : State) : Unchanged [] [.dt, .st, .playAudio] s s.tick := by
  refine ⟨fun _ _ => rfl, fun p hp => ?_⟩
  cases p with
  | dt | st | playAudio => exact absurd (by decide) hp
  | memory => exact fun _ => rfl
  | _ => rfl

/-- A count that each Tick lowers by one, down to 0, is lowered by n after n Ticks. -/
theorem iterate_tick_count {count : State → Nat} (h : ∀ s, count s.tick = count s - 1) (n : Nat) (s : State) :
    count (State.tick^[n] s) = count s - n := by
  have hsemi : Function.Semiconj count State.tick Nat.pred := h
  rw [hsemi.iterate_right n s, Nat.pred_iterate]

theorem iterate_tick_dt (n : Nat) (s : State) : (State.tick^[n] s).dt.toNat = s.dt.toNat - n :=
  iterate_tick_count (count := fun s => s.dt.toNat) State.tick_dt_toNat n s

theorem iterate_tick_st (n : Nat) (s : State) : (State.tick^[n] s).st.toNat = s.st.toNat - n :=
  iterate_tick_count (count := fun s => s.st.toNat) State.tick_st_toNat n s

/-- Once ST is above 0 the first Tick raises playAudio, and later ones keep it. -/
theorem iterate_tick_playAudio (n : Nat) (s : State) :
    (State.tick^[n] s).playAudio = (s.playAudio || decide (0 < n ∧ 0 < s.st.toNat)) := by
  induction n with
  | zero => simp
  | succ n ih =>
    have hraised : (0 < n ∧ 0 < s.st.toNat ∨ 0 < s.st.toNat - n) ↔ 0 < n + 1 ∧ 0 < s.st.toNat := by omega
    rw [Function.iterate_succ_apply', State.tick_playAudio_eq_or, ih, iterate_tick_st, Bool.or_assoc, ← Bool.decide_or]
    simp only [hraised]

theorem iterate_tick_frame (n : Nat) (s : State) :
    Unchanged [] [.dt, .st, .playAudio] s (State.tick^[n] s) ∧ (State.tick^[n] s).out = s.out ∧
      (State.tick^[n] s).firstNonOk = s.firstNonOk := by
  induction n with
  | zero => exact ⟨.refl _ _ s, rfl, rfl⟩
  | succ n ih =>
    rw [Function.iterate_succ_apply']
    obtain ⟨hframe, hout, hfirst⟩ := ih
    exact ⟨hframe.trans (State.tick_unchanged _), hout, hfirst⟩

/-- Settles O51: both timers by their count, playAudio by the ST its Ticks find. -/
theorem ticksCountDownToZero : Obligations.TicksCountDownToZero := by
  rintro s t n rfl
  refine ⟨iterate_tick_dt n s, iterate_tick_st n s, iterate_tick_playAudio n s, ?_, iterate_tick_frame n s⟩
  rw [State.tick_playAudio_eq_or, State.ackAudio_playAudio, State.ackAudio_st, iterate_tick_st, Bool.false_or]
  simp only [Nat.sub_pos_iff_lt]

end Sys2Proof.Machine

/-! PROOFS, family 70_reset_and_hazards.md: what a Load writes (R202), and the run of a machine with nothing loaded into
the halt (R201). -/

namespace Sys2Proof.Machine

/-! ## Load (R176, R202) -/

/-- A Load that does not fit answers RomTooLarge (R176). -/
theorem State.load_of_tooLarge (s : State) {bytes : List Byte} (h : 4096 < 0x200 + bytes.length) :
    s.load bytes = .romTooLarge := by
  simp only [State.load, programFits, Nat.not_le.2 h, decide_false, Bool.false_eq_true, if_false]

/-- Settles O54: the Load that fits is one block write, and the other answers before any write. -/
theorem loadWritesTheProgram : Obligations.LoadWritesTheProgram := by
  refine fun s bytes => ⟨fun hfits => ?_, fun hlarge => ?_⟩
  · exact ⟨_, State.load_eq_ok.2 ⟨hfits, rfl⟩,
      fun k => s.memory.read_writeBlock_inside 0x200 k.val bytes k.isLt,
      fun a ha => s.memory.read_writeBlock_outside 0x200 a bytes ha,
      (Unchanged.refl [] [.memory] s).setMemory _ (by decide), rfl, rfl⟩
  · have hload := s.load_of_tooLarge hlarge
    exact ⟨hload, by simp only [Session.apply, hload]⟩

/-! ## One Step in cleared memory (R201) -/

/-- The word 0x0000 is no instruction: its Step advances pc and reports it (R79, R201). -/
theorem stepWith_of_clearedWord (rnd : Byte) {s : State} (hpc : s.pc.toNat < 4095) (hword : s.wordAtPc = 0) :
    stepWith rnd s = .next
      (({ s with rnd := rnd, pc := s.pc + 2 } : State).report (StepOut.quiet (.unknownOpcode 0 s.pc))) := by
  have hrefused : decodeWord 0 = .error .family0 := rfl
  simp only [stepWith_of_bytes rnd s hpc, hword, hrefused, State.raise_eq]

/-- A frame grows by pc. -/
theorem Unchanged.allowPc {regs : List Reg} {parts : List Part} {s t : State} (h : Unchanged regs parts s t) :
    Unchanged regs (.pc :: parts) s t := by
  obtain ⟨hreg, hpart⟩ := h
  exact ⟨hreg, fun p hp => hpart p (List.not_mem_of_not_mem_cons hp)⟩

/-- The model's step on the word 0x0000: the host's events before it leave pc and memory (R201). -/
theorem step_of_clearedWord {s : State} (hpc : s.pc.toNat < 4095) (hword : s.wordAtPc = 0) :
    ∃ t, step s = .next t ∧ t.pc.toNat = s.pc.toNat + 2 ∧ Unchanged [] (.pc :: hostParts) s t ∧ HostActed 1 s t ∧
      Ends (StepOut.quiet (.unknownOpcode 0 s.pc)) s t := by
  obtain ⟨hpc', hmem, -⟩ := s.takeInputs_kept
  have hu : s.takeInputs.draw.pc.toNat < 4095 := by rwa [State.draw_pc, hpc']
  have huword : s.takeInputs.draw.wordAtPc = 0 := by
    simpa only [State.wordAtPc, State.draw_pc, State.draw_memory, hpc', hmem] using hword
  have hstep := stepWith_of_clearedWord (Config.rnd s.takeInputs.draws) hu huword
  simp only [State.draw_pc, hpc'] at hstep
  obtain ⟨hframe, hacted, hends⟩ :=
    reported_step_frame s (Config.rnd s.takeInputs.draws) (StepOut.quiet (.unknownOpcode 0 s.pc)) rfl
  exact ⟨_, hstep, advanced_pc hpc, hframe.allowPc.setPc _ List.mem_cons_self, hacted, hends⟩

/-! ## The run through cleared memory into the halt (R72, R201) -/

/-- Memory is cleared from 0x200 on, and pc is at one of its words or at the halt just past it. -/
structure State.RunsCleared (s : State) : Prop where
  cleared : ∀ a, 0x200 ≤ a → s.memory.read a = 0
  inProgram : 0x200 ≤ s.pc.toNat
  even : s.pc.toNat % 2 = 0
  notPast : s.pc.toNat ≤ 4096

/-- What a Step at address `a` of cleared memory puts out: UnknownOpcode(0x0000) in memory, halted past it. -/
def clearedOut (a : Nat) : StepOut :=
  if a < 4096 then StepOut.quiet (.unknownOpcode 0 (BitVec.ofNat 16 a)) else { StepOut.quiet .ok with halted := true }

theorem clearedOut_of_lt {a : Nat} (h : a < 4096) :
    clearedOut a = StepOut.quiet (.unknownOpcode 0 (BitVec.ofNat 16 a)) := if_pos h

theorem clearedOut_of_le {a : Nat} (h : 4096 ≤ a) : clearedOut a = { StepOut.quiet .ok with halted := true } :=
  if_neg (Nat.not_lt.2 h)

/-- Past memory the output no longer depends on the address. -/
theorem clearedOut_min (a b : Nat) : clearedOut (min a 4096 + b) = clearedOut (a + b) := by
  by_cases h : a ≤ 4096
  · rw [Nat.min_eq_left h]
  · rw [clearedOut_of_le (by omega), clearedOut_of_le (by omega)]

/-- The status recorded at `a` stands: either it is one, or the core is halted from there on (R188). -/
theorem clearedOut_nonOk_or {a b : Nat} (h : a ≤ b) :
    (clearedOut a).status.nonOk.or (clearedOut b).status.nonOk = (clearedOut a).status.nonOk := by
  by_cases ha : a < 4096
  · rw [clearedOut_of_lt ha]
    rfl
  · rw [clearedOut_of_le (Nat.not_lt.1 ha), clearedOut_of_le ((Nat.not_lt.1 ha).trans h)]
    rfl

theorem State.RunsCleared.wordAtPc {s : State} (h : s.RunsCleared) : s.wordAtPc = 0 := by
  rw [State.wordAtPc, h.cleared _ h.inProgram, h.cleared _ (Nat.le_succ_of_le h.inProgram)]
  rfl

/-- A Step goes to the next cleared word or to the halt, and from the halt nowhere. -/
theorem State.RunsCleared.step {s : State} (h : s.RunsCleared) :
    ∃ t, step s = .next t ∧ t.pc.toNat = min (s.pc.toNat + 2) 4096 ∧ Unchanged [] (.pc :: hostParts) s t ∧
      HostActed 1 s t ∧ Ends (clearedOut s.pc.toNat) s t := by
  have heven := h.even
  have hnotPast := h.notPast
  by_cases hlt : s.pc.toNat < 4096
  · obtain ⟨t, hst, hpc, hframe, hacted, hends⟩ := step_of_clearedWord (by omega) h.wordAtPc
    rw [clearedOut_of_lt hlt, BitVec.ofNat_toNat, BitVec.setWidth_eq]
    exact ⟨t, hst, by omega, hframe, hacted, hends⟩
  · have hhalted : 4096 ≤ s.pc.toNat := Nat.not_lt.1 hlt
    obtain ⟨t, hst, -, hframe, hacted, hends⟩ := halted_repeats s hhalted
    have hpc : t.pc = s.pc := hframe.2 .pc (by decide)
    rw [clearedOut_of_le hhalted]
    exact ⟨t, hst, by rw [hpc]; omega, hframe.allowPc, hacted, hends⟩

/-- Such a Step leaves memory, so the next one is in cleared memory too. -/
theorem State.RunsCleared.next {s t : State} (h : s.RunsCleared) (hpc : t.pc.toNat = min (s.pc.toNat + 2) 4096)
    (hframe : Unchanged [] (.pc :: hostParts) s t) : t.RunsCleared := by
  obtain ⟨hcleared, hprogram, heven, hnotPast⟩ := h
  obtain ⟨-, hpart⟩ := hframe
  have hmem : Part.memory.same s t := hpart .memory (by decide)
  exact ⟨fun a ha => (hmem a).trans (hcleared a ha), by omega, by omega, by omega⟩

/-- The run: the induction on the number of steps. -/
theorem State.RunsCleared.run {s : State} (h : s.RunsCleared) (n : Nat) :
    ∃ t, Sys2Proof.core.run n s = .next t ∧ t.pc.toNat = min (s.pc.toNat + 2 * n) 4096 ∧
      Unchanged [] (.pc :: hostParts) s t ∧ HostActed n s t ∧
      (0 < n → t.out = clearedOut (s.pc.toNat + 2 * (n - 1)) ∧
        t.firstNonOk = s.firstNonOk.or (clearedOut s.pc.toNat).status.nonOk) := by
  induction n generalizing s with
  | zero =>
    exact ⟨s, rfl, (Nat.min_eq_left h.notPast).symm, .refl _ _ s, .zero s, fun hn => absurd hn (Nat.lt_irrefl 0)⟩
  | succ n ih =>
    obtain ⟨t, hst, hpc, hframe, hacted, hout, hfirst⟩ := h.step
    obtain ⟨u, hrun, hpc', hframe', hacted', hlast⟩ := ih (h.next hpc hframe)
    refine ⟨u, (run_succ_of_step hst).trans hrun, by omega, hframe.trans hframe', hacted.step hacted', fun _ => ?_⟩
    cases n with
    | zero =>
      obtain rfl : t = u := Host.Outcome.next.inj hrun
      exact ⟨hout, hfirst⟩
    | succ m =>
      obtain ⟨hout', hfirst'⟩ := hlast m.succ_pos
      have hle : s.pc.toNat ≤ t.pc.toNat := hpc ▸ Nat.le_min.2 ⟨Nat.le_add_right _ 2, h.notPast⟩
      constructor
      · rw [hout', hpc, clearedOut_min]
        congr 1
        omega
      · rw [hfirst', hfirst, Option.or_assoc, clearedOut_nonOk_or hle]

/-- Reset clears memory above the font and starts at 0x200, whatever the parameters and the events to come (R34). -/
theorem State.resetWith_runsCleared (c : Config) (schedule : List (List InputEvent)) :
    ({ State.resetWith c with inputs := schedule } : State).RunsCleared := by
  have hpc : (State.resetWith c).pc.toNat = 0x200 := rfl
  refine ⟨fun a ha => fontMemory_read_above c.font a (by omega), hpc.ge, ?_, ?_⟩
  · rw [hpc]
  · rw [hpc]
    decide

/-- Settles O50: the Step on a cleared word, and its run from Reset. -/
theorem emptyMemoryRunsIntoTheHalt : Obligations.EmptyMemoryRunsIntoTheHalt := by
  refine ⟨fun s hpc hword => step_of_clearedWord hpc hword, ?_⟩
  rintro c schedule s n rfl
  obtain ⟨t, hrun, hpc, hframe, hacted, hlast⟩ := (State.resetWith_runsCleared c schedule).run n
  refine ⟨t, hrun, hpc, hframe, hacted, fun hn => ?_, fun hn hle => ?_, fun hlt => ?_⟩
  · obtain ⟨-, hfirst⟩ := hlast hn
    exact hfirst
  · obtain ⟨hout, -⟩ := hlast hn
    exact hout.trans (clearedOut_of_lt (show 0x200 + 2 * (n - 1) < 4096 by omega))
  · obtain ⟨hout, -⟩ := hlast (by omega)
    exact hout.trans (clearedOut_of_le (show 4096 ≤ 0x200 + 2 * (n - 1) by omega))

end Sys2Proof.Machine
